-- ==== Sys2Proof/Word.lean ====
section
/-! DEFINITION. The word types of the RCE. Every value is unsigned (00_scope.md R8). -/

namespace Sys2Proof

/-- One byte: a byte of the serial bus, of BUF or of a packed register (00_scope.md R6). -/
abbrev Byte := BitVec 8

/-- One host register or command word, HOST_WIDTH = 32 bits (00_scope.md R6, 30_encoding.md R70). -/
abbrev Word := BitVec 32

/-- A remote address, REMOTE_ADDR_WIDTH = 6 bits (00_scope.md R6). -/
abbrev Addr := BitVec 6

end Sys2Proof
end

