-- ==== Sys2Proof/Config.lean ====
section
/-! DEFINITION. What the machine fixes: the parameters of 00_scope.md R6 at the value this hardware takes, the parameters it
takes as an argument and their defaults, the printed constants of the codecs, and the free values (opaque: nothing can evaluate
them). The type of a bus event stands here because the chip oracle is a function of the bus history. -/

namespace Sys2Proof

namespace Config

/-- NUM_CHIPS: chips 0 and 1 share one bus (R6, D6). -/
abbrev numChips : Nat := 2

/-- BUF_BYTES (R6, D32). -/
abbrev bufBytes : Nat := 64

/-- MAX_BURST: LEN + 1 with LEN of 6 bits (R6, D32). -/
abbrev maxBurst : Nat := 64

/-- T_READY: the bound of the ready poll of each transaction, in milliseconds (R6, 40_bus.md R102). The model has no time
(R235), so no definition reads it: log entry 6. -/
abbrev tReadyMs : Nat := 100

/-- CLK_HZ: OPEN, and no rule depends on it (R6, D8). -/
opaque clkHz : Nat

end Config

/-! ### The parameters the machine takes as an argument -/

/-- REGADDR (20_memory.md R56): the remote address of each register the codec commands reach. A parameter: a model for another
chip supplies its own table (93_implementation_defined.md), and the rules name the entries, never the numbers. -/
structure RegAddr where
  aPktctrl1 : Addr
  aPktctrl0 : Addr
  aFreq2 : Addr
  aFreq1 : Addr
  aFreq0 : Addr
  aMdmcfg4 : Addr
  aMdmcfg3 : Addr
  aMdmcfg2 : Addr
  aMdmcfg1 : Addr
  aMdmcfg0 : Addr
  aDeviatn : Addr
  deriving DecidableEq, Repr

/-- The bus lines of a chip (10_state.md R40). -/
inductive BusLine
  | select
  | clock
  | dataIn
  | dataOut
  /-- The two general-purpose lines, which the RCE does not drive. -/
  | gpio (k : Fin 2)
  deriving DecidableEq, Repr

/-- READY_BINDING (00_scope.md R6, D8): which level of which line means ready. OPEN: a parameter with a default. -/
structure ReadyBinding where
  line : BusLine
  /-- The level that means ready: true is high. -/
  high : Bool
  deriving DecidableEq, Repr

/-- The parameters of 00_scope.md R6 that the machine takes as an argument. They stand in its state, and no step changes them
(log entry 10). -/
structure Params where
  regaddr : RegAddr
  readyBinding : ReadyBinding
  deriving DecidableEq, Repr

/-- REGADDR at its defaults (20_memory.md R56). -/
def RegAddr.default : RegAddr where
  aPktctrl1 := 0x07
  aPktctrl0 := 0x08
  aFreq2 := 0x0D
  aFreq1 := 0x0E
  aFreq0 := 0x0F
  aMdmcfg4 := 0x10
  aMdmcfg3 := 0x11
  aMdmcfg2 := 0x12
  aMdmcfg1 := 0x13
  aMdmcfg0 := 0x14
  aDeviatn := 0x15

/-- The parameters at their defaults: READY_BINDING is the line on which the chip answers, read low while the chip's select is
asserted (R6, K3). -/
def Params.default : Params where
  regaddr := RegAddr.default
  readyBinding := ⟨.dataIn, false⟩

/-- A chip index that exists (30_encoding.md R74 step 3: a CHIP value at or above NUM_CHIPS is illegal). -/
abbrev Chip := Fin Config.numChips

/-- The outcome of a transaction (40_bus.md R100). -/
inductive BusOutcome
  | ok
  | timeout
  deriving DecidableEq, Repr

/-- One entry of the bus history: BusEvent(c, hdr, out, in, outcome) (40_bus.md R114). -/
structure BusEvent where
  chip : Chip
  hdr : Byte
  sent : List Byte
  received : List Byte
  outcome : BusOutcome
  deriving DecidableEq, Repr

namespace Config

/-! ### The free values -/

/-- The chip oracle's outcome of a ready poll (20_memory.md R55, 40_bus.md R102): READY_BINDING, the draw's index, the bus
history, the chip, the header byte, the bytes to send and the number of bytes to receive. True is Ready. FREE: log entry 2. -/
opaque chipReady : ReadyBinding → Nat → List BusEvent → Chip → Byte → List Byte → Nat → Bool

/-- The byte the chip oracle answers in one byte time (40_bus.md R100 `exchange`, R103): the draw's index, the bus history,
the chip, the bytes the RCE has sent so far in this transaction (the header and the dummy bytes included) and the number of
bytes to receive. FREE: log entry 2. -/
opaque chipByte : Nat → List BusEvent → Chip → List Byte → Nat → Byte

/-- The unspecified value of a host read of RES or BUF while BUSY = 1 (10_state.md R23, R35): the read's index and its
offset. FREE: log entry 4. -/
opaque busyRead : Nat → Nat → Word

/-! ### The codecs' constants, in OPA units of 10^-8 of the base unit (42_frequency.md R160, 43_link.md R181) -/

/-- S2, the high-byte step: 26 MHz. -/
abbrev freqS2 : Nat := 2600000000
/-- S1, the mid-byte step: 0.1015625 MHz. -/
abbrev freqS1 : Nat := 10156250
/-- S0, the low-byte step: 0.00039675 MHz. -/
abbrev freqS0 : Nat := 39675
/-- FMAX, the largest input encoded without clamp: 6655.99999999 MHz. -/
abbrev freqMax : Nat := 665599999999
/-- DR_L, the data rate's lower clamp: 0.0247955 kbps. -/
abbrev drL : Nat := 2479550
/-- DR_U, the data rate's upper clamp: 1621.83 kbps. -/
abbrev drU : Nat := 162183000000
/-- DV_L, the deviation's lower clamp: 1.586914 kHz. -/
abbrev dvL : Nat := 158691400
/-- DV_U, the deviation's upper clamp: 380.859375 kHz. -/
abbrev dvU : Nat := 38085937500
/-- BW_T1, the bandwidth's halving threshold: 101.5625 kHz. -/
abbrev bwT1 : Nat := 10156250000
/-- BW_T2, the bandwidth's threshold of the division by 1.25: 58.1 kHz. -/
abbrev bwT2 : Nat := 5810000000
/-- CS_L, the channel spacing's lower clamp: 25.390625 kHz. -/
abbrev csL : Nat := 2539062500
/-- CS_T, the channel spacing's halving threshold: 50.682068 kHz. -/
abbrev csT : Nat := 5068206800
/-- CS_U, the channel spacing's upper clamp: 405.456543 kHz. -/
abbrev csU : Nat := 40545654300

end Config

end Sys2Proof
end

