-- ==== Sys2Proof/Syntax.lean ====
section
/-! DEFINITION. The commands: one constructor per row of spec/opcode_table.json (30_encoding.md R73), with the operands of
30_encoding.md R72. -/

namespace Sys2Proof

/-- The five packed remote registers, by their RID (41_bitfield.md R130). -/
inductive PackedReg
  /-- RID 0, packet-control byte A. -/
  | pktctrl0
  /-- RID 1, packet-control byte B. -/
  | pktctrl1
  /-- RID 2, modem-config byte A. -/
  | mdmcfg1
  /-- RID 3, modem-config byte B. -/
  | mdmcfg2
  /-- RID 4, the register that bandwidth and data rate share. -/
  | mdmcfg4
  deriving DecidableEq, Repr

/-- The RID of a packed register (41_bitfield.md R130). -/
def PackedReg.rid : PackedReg → BitVec 3
  | .pktctrl0 => 0
  | .pktctrl1 => 1
  | .mdmcfg1 => 2
  | .mdmcfg2 => 3
  | .mdmcfg4 => 4

/-- NF(rid), the number of fields (41_bitfield.md R130). -/
def PackedReg.nf : PackedReg → Nat
  | .pktctrl0 => 4
  | .pktctrl1 => 4
  | .mdmcfg1 => 3
  | .mdmcfg2 => 4
  | .mdmcfg4 => 3

/-- The commands of the RCE. c: chip; a: remote address; d: data byte; n: burst length (LEN + 1); r: packed register;
fid: field id; val: raw field value. -/
inductive Instr
  | nop
  | busInit
  | wrReg (c : Chip) (a : Addr) (d : Byte)
  | rdReg (c : Chip) (a : Addr)
  | wrBurst (c : Chip) (a : Addr) (n : Nat)
  | rdBurst (c : Chip) (a : Addr) (n : Nat)
  | strobe (c : Chip) (a : Addr)
  | rdStatus (c : Chip) (a : Addr)
  | fdec (r : PackedReg) (d : Byte)
  | fenc (r : PackedReg)
  | decomp (c : Chip) (r : PackedReg)
  | fget (c : Chip) (r : PackedReg) (fid : Nat)
  | fset (c : Chip) (r : PackedReg) (fid : Nat) (val : Byte)
  | freqEnc
  | setFreq (c : Chip)
  | drateEnc
  | setDrate (c : Chip)
  | devEnc
  | setDev (c : Chip)
  | bwEnc
  | setBw (c : Chip)
  | chspEnc
  | setChsp (c : Chip)
  deriving DecidableEq, Repr

/-- The chip a command names; none where the CHIP field is a zero field (30_encoding.md R73). -/
def Instr.chip : Instr → Option Chip
  | .nop | .busInit | .fdec _ _ | .fenc _ | .freqEnc | .drateEnc | .devEnc | .bwEnc | .chspEnc => none
  | .wrReg c _ _ | .rdReg c _ | .wrBurst c _ _ | .rdBurst c _ _ | .strobe c _ | .rdStatus c _ => some c
  | .decomp c _ | .fget c _ _ | .fset c _ _ _ => some c
  | .setFreq c | .setDrate c | .setDev c | .setBw c | .setChsp c => some c

/-- The Bus column of 30_encoding.md R73. -/
def Instr.usesBus : Instr → Bool
  | .nop | .busInit | .fdec _ _ | .fenc _ | .freqEnc | .drateEnc | .devEnc | .bwEnc | .chspEnc => false
  | .wrReg _ _ _ | .rdReg _ _ | .wrBurst _ _ _ | .rdBurst _ _ _ | .strobe _ _ | .rdStatus _ _ => true
  | .decomp _ _ | .fget _ _ _ | .fset _ _ _ _ => true
  | .setFreq _ | .setDrate _ | .setDev _ | .setBw _ | .setChsp _ => true

end Sys2Proof
end

