-- ==== Sys2Proof/WellFormed.lean ====
section
/-! DEFINITION. Which commands the encoding can express (30_encoding.md R72, R74, R77). CHIP and RID are checked by their
types (Chip, PackedReg); the burst length and the field id are numbers and are checked here. -/

namespace Sys2Proof

/-- A burst length is 1 to 64: LEN + 1 with LEN of 6 bits (30_encoding.md R72, R77). -/
def burstLenOk (n : Nat) : Bool := 1 ≤ n && n ≤ Config.maxBurst

/-- A field id is below NF(rid) (30_encoding.md R74 step 3). -/
def fieldOk (r : PackedReg) (fid : Nat) : Bool := fid < r.nf

/-- The command is one that a legal word stands for (30_encoding.md R74). -/
def Instr.wf : Instr → Bool
  | .wrBurst _ _ n => burstLenOk n
  | .rdBurst _ _ n => burstLenOk n
  | .fget _ r fid => fieldOk r fid
  | .fset _ r fid _ => fieldOk r fid
  | .nop | .busInit | .wrReg _ _ _ | .rdReg _ _ | .strobe _ _ | .rdStatus _ _ => true
  | .fdec _ _ | .fenc _ | .decomp _ _ => true
  | .freqEnc | .setFreq _ | .drateEnc | .setDrate _ | .devEnc | .setDev _ => true
  | .bwEnc | .setBw _ | .chspEnc | .setChsp _ => true

end Sys2Proof
end

