-- ==== Sys2Proof/Decode.lean ====
section
/-! DEFINITION. Decoding a command word, total on every 32-bit word and rejecting by name (30_encoding.md R74, R75), and
the encoder, both written from the formats of R71 and the opcode map of R73. -/

namespace Sys2Proof

/-! ### The opcode map (30_encoding.md R73) -/

/-- The rows of the opcode map. -/
inductive Opcode
  | nop
  | busInit
  | wrReg
  | rdReg
  | wrBurst
  | rdBurst
  | strobe
  | rdStatus
  | fdec
  | fenc
  | decomp
  | fget
  | fset
  | freqEnc
  | setFreq
  | drateEnc
  | setDrate
  | devEnc
  | setDev
  | bwEnc
  | setBw
  | chspEnc
  | setChsp
  deriving DecidableEq, Repr

/-- Every row, in the map's order. -/
def Opcode.all : List Opcode :=
  [.nop, .busInit] ++
  [.wrReg, .rdReg, .wrBurst, .rdBurst, .strobe, .rdStatus] ++
  [.fdec, .fenc, .decomp, .fget, .fset] ++
  [.freqEnc, .setFreq, .drateEnc, .setDrate, .devEnc, .setDev, .bwEnc, .setBw, .chspEnc, .setChsp]

/-- Column OPC of R73: bits 31:24 of the word. -/
def Opcode.code : Opcode → Byte
  | .nop => 0x00
  | .busInit => 0x01
  | .wrReg => 0x10
  | .rdReg => 0x11
  | .wrBurst => 0x12
  | .rdBurst => 0x13
  | .strobe => 0x14
  | .rdStatus => 0x15
  | .fdec => 0x20
  | .fenc => 0x21
  | .decomp => 0x22
  | .fget => 0x23
  | .fset => 0x24
  | .freqEnc => 0x30
  | .setFreq => 0x31
  | .drateEnc => 0x32
  | .setDrate => 0x33
  | .devEnc => 0x34
  | .setDev => 0x35
  | .bwEnc => 0x36
  | .setBw => 0x37
  | .chspEnc => 0x38
  | .setChsp => 0x39

/-- Column match of R73. -/
def Opcode.pattern : Opcode → Word
  | .nop => 0x00000000
  | .busInit => 0x01000000
  | .wrReg => 0x10000000
  | .rdReg => 0x11000000
  | .wrBurst => 0x12000000
  | .rdBurst => 0x13000000
  | .strobe => 0x14000000
  | .rdStatus => 0x15000000
  | .fdec => 0x20000000
  | .fenc => 0x21000000
  | .decomp => 0x22000000
  | .fget => 0x23000000
  | .fset => 0x24000000
  | .freqEnc => 0x30000000
  | .setFreq => 0x31000000
  | .drateEnc => 0x32000000
  | .setDrate => 0x33000000
  | .devEnc => 0x34000000
  | .setDev => 0x35000000
  | .bwEnc => 0x36000000
  | .setBw => 0x37000000
  | .chspEnc => 0x38000000
  | .setChsp => 0x39000000

/-- Column mask of R73. -/
def Opcode.mask : Opcode → Word
  | .nop => 0xFFFFFFFF
  | .busInit => 0xFFFFFFFF
  | .wrReg => 0xFF00FF00
  | .rdReg => 0xFF00FFFF
  | .wrBurst => 0xFF00C0FF
  | .rdBurst => 0xFF00C0FF
  | .strobe => 0xFF00FFFF
  | .rdStatus => 0xFF00FFFF
  | .fdec => 0xFFF8FF00
  | .fenc => 0xFFF8FFFF
  | .decomp => 0xFF38FFFF
  | .fget => 0xFF38F8FF
  | .fset => 0xFF38F800
  | .freqEnc => 0xFFFFFFFF
  | .setFreq => 0xFF3FFFFF
  | .drateEnc => 0xFFFFFFFF
  | .setDrate => 0xFF3FFFFF
  | .devEnc => 0xFFFFFFFF
  | .setDev => 0xFF3FFFFF
  | .bwEnc => 0xFFFFFFFF
  | .setBw => 0xFF3FFFFF
  | .chspEnc => 0xFFFFFFFF
  | .setChsp => 0xFF3FFFFF

/-- The row with a given OPC. -/
def Opcode.ofByte (b : Byte) : Option Opcode := Opcode.all.find? (fun o => o.code == b)

/-- The row a command belongs to. -/
def Instr.opcode : Instr → Opcode
  | .nop => .nop
  | .busInit => .busInit
  | .wrReg _ _ _ => .wrReg
  | .rdReg _ _ => .rdReg
  | .wrBurst _ _ _ => .wrBurst
  | .rdBurst _ _ _ => .rdBurst
  | .strobe _ _ => .strobe
  | .rdStatus _ _ => .rdStatus
  | .fdec _ _ => .fdec
  | .fenc _ => .fenc
  | .decomp _ _ => .decomp
  | .fget _ _ _ => .fget
  | .fset _ _ _ _ => .fset
  | .freqEnc => .freqEnc
  | .setFreq _ => .setFreq
  | .drateEnc => .drateEnc
  | .setDrate _ => .setDrate
  | .devEnc => .devEnc
  | .setDev _ => .setDev
  | .bwEnc => .bwEnc
  | .setBw _ => .setBw
  | .chspEnc => .chspEnc
  | .setChsp _ => .setChsp

/-! ### The fields of a word (30_encoding.md R71, R72) -/

/-- OPC, bits 31:24. -/
def fieldOpc (w : Word) : Byte := w.extractLsb' 24 8
/-- CHIP, bits 23:22. -/
def fieldChip (w : Word) : BitVec 2 := w.extractLsb' 22 2
/-- ADDR, bits 21:16. -/
def fieldAddr (w : Word) : Addr := w.extractLsb' 16 6
/-- LEN, bits 13:8. -/
def fieldLen (w : Word) : BitVec 6 := w.extractLsb' 8 6
/-- DATA or VAL, bits 7:0. -/
def fieldData (w : Word) : Byte := w.extractLsb' 0 8
/-- RID, bits 18:16. -/
def fieldRid (w : Word) : BitVec 3 := w.extractLsb' 16 3
/-- FID, bits 10:8. -/
def fieldFid (w : Word) : BitVec 3 := w.extractLsb' 8 3
/-- n = LEN + 1, the one field that is not taken as it stands (R72). -/
def burstLen (w : Word) : Nat := (fieldLen w).toNat + 1

/-! ### Decoding (30_encoding.md R74) -/

/-- Why a word is no legal command: each makes it IllegalCommand (R74 steps 1 to 3, R75). -/
inductive DecodeError
  /-- Step 1: bits 31:24 are no OPC of the map. -/
  | unknownOpcode
  /-- Step 2: a reserved field or a zero field is not zero. -/
  | nonzeroReserved
  /-- Step 3: the command names a chip at or above NUM_CHIPS. -/
  | chipOutOfRange
  /-- Step 3: RID is above 4. -/
  | ridOutOfRange
  /-- Step 3: FID is at or above NF(rid). -/
  | fidOutOfRange
  deriving DecidableEq, Repr

/-- The chip a CHIP field names (R74 step 3). -/
def chipOfBits (v : BitVec 2) : Except DecodeError Chip :=
  if h : v.toNat < Config.numChips then .ok ⟨v.toNat, h⟩ else .error .chipOutOfRange

/-- The packed register an RID field names (R74 step 3, 41_bitfield.md R130). -/
def regOfBits (v : BitVec 3) : Except DecodeError PackedReg :=
  match v.toNat with
  | 0 => .ok .pktctrl0
  | 1 => .ok .pktctrl1
  | 2 => .ok .mdmcfg1
  | 3 => .ok .mdmcfg2
  | 4 => .ok .mdmcfg4
  | _ => .error .ridOutOfRange

/-- The field id of FGET and FSET (R74 step 3). -/
def fidOfBits (r : PackedReg) (v : BitVec 3) : Except DecodeError Nat :=
  if fieldOk r v.toNat then .ok v.toNat else .error .fidOutOfRange

/-- The operands of a word of a known row (R72), with the value checks of R74 step 3. -/
def decodeOperands (o : Opcode) (w : Word) : Except DecodeError Instr :=
  match o with
  | .nop => .ok .nop
  | .busInit => .ok .busInit
  | .wrReg => (chipOfBits (fieldChip w)).map fun c => .wrReg c (fieldAddr w) (fieldData w)
  | .rdReg => (chipOfBits (fieldChip w)).map fun c => .rdReg c (fieldAddr w)
  | .wrBurst => (chipOfBits (fieldChip w)).map fun c => .wrBurst c (fieldAddr w) (burstLen w)
  | .rdBurst => (chipOfBits (fieldChip w)).map fun c => .rdBurst c (fieldAddr w) (burstLen w)
  | .strobe => (chipOfBits (fieldChip w)).map fun c => .strobe c (fieldAddr w)
  | .rdStatus => (chipOfBits (fieldChip w)).map fun c => .rdStatus c (fieldAddr w)
  | .fdec => (regOfBits (fieldRid w)).map fun r => .fdec r (fieldData w)
  | .fenc => (regOfBits (fieldRid w)).map fun r => .fenc r
  | .decomp => (chipOfBits (fieldChip w)).bind fun c => (regOfBits (fieldRid w)).map fun r => .decomp c r
  | .fget => (chipOfBits (fieldChip w)).bind fun c => (regOfBits (fieldRid w)).bind fun r =>
      (fidOfBits r (fieldFid w)).map fun f => .fget c r f
  | .fset => (chipOfBits (fieldChip w)).bind fun c => (regOfBits (fieldRid w)).bind fun r =>
      (fidOfBits r (fieldFid w)).map fun f => .fset c r f (fieldData w)
  | .freqEnc => .ok .freqEnc
  | .setFreq => (chipOfBits (fieldChip w)).map .setFreq
  | .drateEnc => .ok .drateEnc
  | .setDrate => (chipOfBits (fieldChip w)).map .setDrate
  | .devEnc => .ok .devEnc
  | .setDev => (chipOfBits (fieldChip w)).map .setDev
  | .bwEnc => .ok .bwEnc
  | .setBw => (chipOfBits (fieldChip w)).map .setBw
  | .chspEnc => .ok .chspEnc
  | .setChsp => (chipOfBits (fieldChip w)).map .setChsp

/-- Decoding a word, R74 steps 1 to 3. Step 4 (the bus must be initialised) is each bus command's own check (40_bus.md
R104). Total on every word (R75). -/
def decode (w : Word) : Except DecodeError Instr :=
  match Opcode.ofByte (fieldOpc w) with
  | none => .error .unknownOpcode
  | some o => if w &&& o.mask = o.pattern then decodeOperands o w else .error .nonzeroReserved

/-- The decoder on a word given as a number with the table's bit numbering: bit 0 of the table is bit 0 of the command
word. Every command has 32 bits (R70), so the bits above `nbits` up to 31 are 0 and no longer word is a command. -/
def decodeTableWord (nbits w : Nat) : Option Instr :=
  if nbits ≤ 32 then (decode (BitVec.ofNat 32 (w % 2 ^ nbits))).toOption else none

/-! ### The encoder (30_encoding.md R71, R77) -/

/-- Format N. -/
def wordN (opc : Byte) : Word := opc ++ 0#24
/-- Format B. -/
def wordB (opc : Byte) (c : BitVec 2) (a : Addr) (len : BitVec 6) (d : Byte) : Word :=
  opc ++ c ++ a ++ 0#2 ++ len ++ d
/-- Format F. -/
def wordF (opc : Byte) (c : BitVec 2) (rid : BitVec 3) (fid : BitVec 3) (val : Byte) : Word :=
  opc ++ c ++ 0#3 ++ rid ++ 0#5 ++ fid ++ val
/-- Format Q. -/
def wordQ (opc : Byte) (c : BitVec 2) : Word := opc ++ c ++ 0#22

/-- CHIP of a chip. -/
def chipBits (c : Chip) : BitVec 2 := BitVec.ofNat 2 c.val
/-- LEN of a burst length: n - 1. -/
def lenBits (n : Nat) : BitVec 6 := BitVec.ofNat 6 (n - 1)

/-- The word of a command (R77). -/
def encode : Instr → Word
  | .nop => wordN 0x00
  | .busInit => wordN 0x01
  | .wrReg c a d => wordB 0x10 (chipBits c) a 0 d
  | .rdReg c a => wordB 0x11 (chipBits c) a 0 0
  | .wrBurst c a n => wordB 0x12 (chipBits c) a (lenBits n) 0
  | .rdBurst c a n => wordB 0x13 (chipBits c) a (lenBits n) 0
  | .strobe c a => wordB 0x14 (chipBits c) a 0 0
  | .rdStatus c a => wordB 0x15 (chipBits c) a 0 0
  | .fdec r d => wordF 0x20 0 r.rid 0 d
  | .fenc r => wordF 0x21 0 r.rid 0 0
  | .decomp c r => wordF 0x22 (chipBits c) r.rid 0 0
  | .fget c r fid => wordF 0x23 (chipBits c) r.rid (BitVec.ofNat 3 fid) 0
  | .fset c r fid val => wordF 0x24 (chipBits c) r.rid (BitVec.ofNat 3 fid) val
  | .freqEnc => wordQ 0x30 0
  | .setFreq c => wordQ 0x31 (chipBits c)
  | .drateEnc => wordQ 0x32 0
  | .setDrate c => wordQ 0x33 (chipBits c)
  | .devEnc => wordQ 0x34 0
  | .setDev c => wordQ 0x35 (chipBits c)
  | .bwEnc => wordQ 0x36 0
  | .setBw c => wordQ 0x37 (chipBits c)
  | .chspEnc => wordQ 0x38 0
  | .setChsp c => wordQ 0x39 (chipBits c)

end Sys2Proof
end

