-- ==== Sys2Proof/Machine/State.lean ====
section
/-! DEFINITION. The machine's state as plain data: everything 10_state.md gives the RCE, the bus history of 40_bus.md R114,
the parameters of 00_scope.md R6 (log entry 10), and the model's own queues (log entries 1, 2, 4, 5, 8). Faults and refusals,
and the state after reset (70_reset_and_hazards.md R250). -/

namespace Sys2Proof.Machine

/-- BUF as a list of (index, byte) cells in one canonical form: indexes strictly rising and below BUF_BYTES, no byte 0x00.
An unlisted index reads as the reset value 0x00 (10_state.md R35). The form is Memory.wf, its operations are in Ops.lean. -/
abbrev Memory := List Host.Cell

/-- The events of 60_exceptions.md R220. -/
inductive Event
  | transportTimeout
  | invalidParameter
  | illegalCommand
  | commandOverrun
  | busNotInitialized
  deriving DecidableEq, Repr

/-- STATUS (10_state.md R24), one field per field of its layout. Bits 31:12 are always 0 (R34) and have no field; the whole
word is Status.word (Flags.lean). -/
structure Status where
  /-- Bit 0: a command is executing (R25). -/
  busy : Bool
  /-- Bit 1: the last accepted command has completed (R26). -/
  done : Bool
  /-- Bit 2, sticky: a TransportTimeout occurred (R27). -/
  timeout : Bool
  /-- Bit 3, sticky: an InvalidParameter clamp occurred (R28). -/
  clamp : Bool
  /-- Bit 4, sticky: an IllegalCommand occurred (R29). -/
  illegal : Bool
  /-- Bit 5, sticky: a CommandOverrun occurred (R30). -/
  ovr : Bool
  /-- Bit 6, sticky: a BusNotInitialized occurred (R31). -/
  noinit : Bool
  /-- Bit 7: the bus has been initialised (R32). -/
  init : Bool
  /-- Bits 11:8: the event code of the last completed command (R33). -/
  cause : BitVec 4
  deriving DecidableEq, Repr

/-- What a transaction of a command sends after its header. -/
inductive Send
  /-- These bytes. -/
  | bytes (bs : List Byte)
  /-- The one byte the command has computed so far (R37), from a byte it has read. -/
  | held
  deriving DecidableEq, Repr

/-- What a command does with the bytes of a completed transaction. -/
inductive After
  /-- Nothing: a write or a strobe. -/
  | nothing
  /-- RES <- the byte read (RD_REG R109, RD_STATUS R113). -/
  | byteToRes
  /-- BUF[i] <- byte i, RES <- n (RD_BURST R111). -/
  | burstToBuf
  /-- RES <- the fields of the byte read, one per lane (DECOMP R139). -/
  | lanesToRes (r : PackedReg)
  /-- RES <- one field of the byte read (FGET R140). -/
  | fieldToRes (r : PackedReg) (fid : Nat)
  /-- The byte to write and RES <- the byte read with one field replaced (FSET R141). -/
  | putField (r : PackedReg) (fid : Nat) (v : Nat)
  /-- The byte to write <- (the byte read AND keep) OR new (the merges of 43_link.md R184, R190, R193). -/
  | merge (keep new : Byte)
  deriving DecidableEq, Repr

/-- One transaction that a command has still to issue: the arguments of BusXfer (40_bus.md R100), and what the command does
with its outcome. -/
structure Txn where
  chip : Chip
  hdr : Byte
  send : Send
  nin : Nat
  after : After
  /-- On Timeout RES <- 0x00000000, the sentinel (D34). -/
  zeroResOnTimeout : Bool
  deriving DecidableEq, Repr

/-- The step of the current command (10_state.md R37): which transactions are still to come, the byte computed so far, and
the events recorded so far (60_exceptions.md R228). -/
structure Flight where
  todo : List Txn
  held : Byte
  events : List Event
  deriving DecidableEq, Repr

/-- ENG and the step of the current command (10_state.md R37). ENG is EXEC in the last two. -/
inductive Engine
  | idle
  /-- A command is accepted (R21); its word in CMD is still to be decoded. -/
  | accepted
  | running (f : Flight)
  deriving DecidableEq, Repr

/-- The shared clock and data-out lines (10_state.md R40): not driven to any level the spec fixes before BUS_INIT, idle
after it (70_reset_and_hazards.md R250, 40_bus.md R107). -/
inductive BusLines
  | unconfigured
  | idle
  deriving DecidableEq, Repr

/-- A chip's answer to one transaction, fixed beforehand: the outcome of its ready poll and the bytes it returns in the
receive phase (20_memory.md R55; log entry 2). -/
inductive Answer
  | timeout
  | ready (bytes : List Byte)
  deriving DecidableEq, Repr

/-- What happens to the machine from outside, and whose turn it is (log entry 1). -/
inductive Input
  /-- MemRead(offset, width) (00_scope.md R9). -/
  | read (offset width : Nat)
  /-- MemWrite(offset, width, value) (R9). -/
  | write (offset width : Nat) (value : Word)
  /-- The host polls STATUS until BUSY = 0 (30_encoding.md R78 `wait`). -/
  | wait
  /-- The platform asserts reset (70_reset_and_hazards.md R250, R251). -/
  | reset
  /-- The engine moves by one phase: it decodes, selects a chip, does one transaction, or completes. -/
  | phase
  deriving DecidableEq, Repr

/-- The state of the machine. -/
structure State where
  /-- REGADDR and READY_BINDING, the parameters the machine takes as an argument (00_scope.md R6). No step changes them (log
  entry 10). -/
  params : Params
  /-- CMD, the last accepted command word (10_state.md R21). -/
  cmd : Word
  /-- STATUS (R24). -/
  status : Status
  /-- OPA bits 31:0 (R22). -/
  opaLo : Word
  /-- OPA bits 63:32 (R22). -/
  opaHi : Word
  /-- RES (R23). -/
  res : Word
  /-- BUF, the burst buffer (R35). -/
  buf : Memory
  /-- ENG and the step of the current command (R37). -/
  eng : Engine
  /-- SEL, the chip whose select line is asserted (R37, R40). -/
  sel : Option Chip
  /-- The clock and data-out lines (R40, 40_bus.md R107). -/
  lines : BusLines
  /-- The bus history, oldest first (40_bus.md R114). -/
  history : List BusEvent
  /-- The model's own: what comes from outside, oldest first (log entry 1). -/
  inputs : List Input
  /-- The model's own: chip answers fixed beforehand, oldest first (log entry 2). -/
  answers : List Answer
  /-- The model's own: the value the host's last read returned (log entry 5). -/
  rdata : Option Word
  /-- The model's own: the index of the next free draw of the chip oracle (log entry 2). -/
  chipDraws : Nat
  /-- The model's own: the index of the next free value of a read made while BUSY = 1 (log entry 4). -/
  readDraws : Nat
  deriving DecidableEq, Repr

/-- The machine has no faults: nothing is fatal and every command completes (60_exceptions.md R229, R230). No constructor,
so no step can end in one: safe. -/
inductive Fault
  deriving DecidableEq, Repr

/-- Why a step has no meaning. -/
inductive Refusal
  /-- Raised by an arm of exec whose instruction has no meaning yet. Safe: the machine stops. No arm raises it. -/
  | notModelled (mnemonic : String)
  /-- Raised by a host access that is not 32 bits wide at a multiple of 4 below 0x80: the spec has the model refuse it, and
  gives it no step (20_memory.md R51). Safe: the machine stops. -/
  | undefinedHostAccess (offset width : Nat)
  deriving DecidableEq, Repr

/-- STATUS after reset (70_reset_and_hazards.md R250): every bit 0. -/
def Status.reset : Status where
  busy := false
  done := false
  timeout := false
  clamp := false
  illegal := false
  ovr := false
  noinit := false
  init := false
  cause := 0

/-- The machine after reset (70_reset_and_hazards.md R250), with the parameters at their
defaults. The last five fields are the model's own; their values are a
DESIGN CHOICE (log entry 8): nothing comes from outside, no answer is fixed, no value has been read or drawn. -/
def State.reset : State where
  params := Params.default
  cmd := 0x00000000
  status := Status.reset
  opaLo := 0x00000000
  opaHi := 0x00000000
  res := 0x00000000
  buf := []
  eng := .idle
  sel := none
  lines := .unconfigured
  history := []
  inputs := []
  answers := []
  rdata := none
  chipDraws := 0
  readDraws := 0

end Sys2Proof.Machine
end

