-- ==== Sys2Proof/Machine/Flags.lean ====
section
/-! DEFINITION. Every computation of a STATUS bit: the STATUS word and its write-1-to-clear bits (10_state.md R24 to R34), the
event codes and their priority (60_exceptions.md R220, R227), and STATUS in the completion step (R228). -/

namespace Sys2Proof.Machine

/-- One bit as a 32-bit word. -/
def bitAt (k : Nat) (b : Bool) : Word := (BitVec.ofBool b).zeroExtend 32 <<< k

/-- The STATUS word a host read returns (10_state.md R24): bits 31:12 are 0 (R34). -/
def Status.word (st : Status) : Word :=
  bitAt 0 st.busy ||| bitAt 1 st.done ||| bitAt 2 st.timeout ||| bitAt 3 st.clamp |||
  bitAt 4 st.illegal ||| bitAt 5 st.ovr ||| bitAt 6 st.noinit ||| bitAt 7 st.init |||
  (st.cause.zeroExtend 32 <<< 8)

/-- A host write of v to STATUS: each W1C bit (bits 1 to 6) whose written bit is 1 is cleared, every other bit stays
(10_state.md R24). -/
def Status.writeOneToClear (v : Word) (st : Status) : Status :=
  { st with
    done := st.done && !v.getLsbD 1
    timeout := st.timeout && !v.getLsbD 2
    clamp := st.clamp && !v.getLsbD 3
    illegal := st.illegal && !v.getLsbD 4
    ovr := st.ovr && !v.getLsbD 5
    noinit := st.noinit && !v.getLsbD 6 }

/-- STATUS when a command is accepted: BUSY <- 1 and DONE <- 0 (10_state.md R21). -/
def Status.accept (st : Status) : Status := { st with busy := true, done := false }

/-- STATUS when a host write is dropped: OVR <- 1 at once, CAUSE unchanged (60_exceptions.md R224). -/
def Status.overrun (st : Status) : Status := { st with ovr := true }

/-- The code of an event (60_exceptions.md R220). -/
def Event.code : Event → BitVec 4
  | .transportTimeout => 1
  | .invalidParameter => 2
  | .illegalCommand => 3
  | .commandOverrun => 4
  | .busNotInitialized => 5

/-- The events that enter CAUSE, highest priority first (60_exceptions.md R227). CommandOverrun never enters it. -/
def Event.priority : List Event :=
  [.illegalCommand, .busNotInitialized, .transportTimeout, .invalidParameter]

/-- CAUSE of a command that recorded these events: the code of the one of highest priority, 0 if none (R228). -/
def causeOf (evs : List Event) : BitVec 4 :=
  match Event.priority.find? (fun e => evs.contains e) with
  | some e => e.code
  | none => 0

/-- Recording an event of the current command: the events are a set (R228), so one is recorded at most once (R222). -/
def addEvent (e : Event) (evs : List Event) : List Event :=
  if evs.contains e then evs else evs ++ [e]

/-- The events of a command in which a clamp was or was not needed (00_scope.md R12). -/
def clampEvents (clamped : Bool) : List Event := if clamped then [.invalidParameter] else []

/-- STATUS in the completion step (60_exceptions.md R228): the sticky bit of every recorded event is set, CAUSE is written,
DONE <- 1 and BUSY <- 0. -/
def Status.complete (evs : List Event) (st : Status) : Status :=
  { st with
    timeout := st.timeout || evs.contains .transportTimeout
    clamp := st.clamp || evs.contains .invalidParameter
    illegal := st.illegal || evs.contains .illegalCommand
    noinit := st.noinit || evs.contains .busNotInitialized
    cause := causeOf evs
    done := true
    busy := false }

end Sys2Proof.Machine
end

