-- ==== Sys2Proof/Machine/Ops.lean ====
section
/-! DEFINITION. The shared operations: BUF's bytes and words, raising an event and completing a command (60_exceptions.md
R228; the RCE's only form of an exception, R229), and the transaction primitive BusXfer (40_bus.md R100 to R103). -/

namespace Sys2Proof.Machine

/-! ### BUF (10_state.md R35) -/

/-- The byte at an index; an unlisted one is the reset value 0x00 (R35). -/
def Memory.read : Memory → Nat → Byte
  | [], _ => 0#8
  | (k, v) :: rest, a => if k = a then v else Memory.read rest a

/-- Writing one byte, keeping the canonical form. -/
def Memory.write : Memory → Nat → Byte → Memory
  | [], a, b => if b = 0#8 then [] else [(a, b)]
  | (k, v) :: rest, a, b =>
    if a < k then (if b = 0#8 then (k, v) :: rest else (a, b) :: (k, v) :: rest)
    else if a = k then (if b = 0#8 then rest else (a, b) :: rest)
    else (k, v) :: Memory.write rest a b

/-- The canonical form from an index on: indexes strictly rising from lo and below BUF_BYTES, no byte 0x00. -/
def Memory.wfFrom : Nat → Memory → Bool
  | _, [] => true
  | lo, (a, b) :: rest => lo ≤ a && a < Config.bufBytes && b != 0#8 && Memory.wfFrom (a + 1) rest

/-- BUF is in its canonical form. -/
def Memory.wf (m : Memory) : Bool := Memory.wfFrom 0 m

/-- The n bytes from an index on, lowest index first. -/
def Memory.readBytes (m : Memory) (a n : Nat) : List Byte := (List.range n).map fun i => m.read (a + i)

/-- Writing bytes from an index on, the first at the lowest index. -/
def Memory.writeBytes : Memory → Nat → List Byte → Memory
  | m, _, [] => m
  | m, a, b :: bs => Memory.writeBytes (m.write a b) (a + 1) bs

/-- Byte lane j of a host word, bits 8j+7 to 8j (20_memory.md R52). -/
def lane (w : Word) (j : Nat) : Byte := w.extractLsb' (8 * j) 8

/-- The word with byte j in lane j (20_memory.md R52). -/
def wordOfLanes (b0 b1 b2 b3 : Byte) : Word := b3 ++ b2 ++ b1 ++ b0

/-- BUF word k: BUF[4k] in lane 0 to BUF[4k+3] in lane 3 (10_state.md R35). -/
def Memory.readWord (m : Memory) (k : Nat) : Word :=
  wordOfLanes (m.read (4 * k)) (m.read (4 * k + 1)) (m.read (4 * k + 2)) (m.read (4 * k + 3))

/-- Replacing the four bytes of BUF word k (10_state.md R35). -/
def Memory.writeWord (m : Memory) (k : Nat) (w : Word) : Memory :=
  m.writeBytes (4 * k) [lane w 0, lane w 1, lane w 2, lane w 3]

/-! ### Registers the engine writes -/

/-- RES <- v (10_state.md R23). -/
def State.setRes (v : Word) (s : State) : State := { s with res := v }

/-- BUF <- m. -/
def State.setBuf (m : Memory) (s : State) : State := { s with buf := m }

/-- ENG and the step of the current command <- e (10_state.md R37). -/
def State.setEng (e : Engine) (s : State) : State := { s with eng := e }

/-- x[OPA] = OPA_HI : OPA_LO (10_state.md R22), as an unsigned number (00_scope.md R7). -/
def State.opa (s : State) : Nat := (s.opaHi ++ s.opaLo : BitVec 64).toNat

/-! ### Starting, raising, completing a command -/

/-- A command has begun: the transactions it will issue, and the events it has recorded by `flag` (00_scope.md R9). -/
def State.start (evs : List Event) (todo : List Txn) (s : State) : State :=
  s.setEng (.running ⟨todo, 0x00, evs⟩)

/-- `raise E` before any transaction (00_scope.md R9): E is recorded and no transaction is issued. -/
def State.raise (e : Event) (s : State) : State := s.start [e] []

/-- The check of every command with Bus = yes (30_encoding.md R74 step 4, 40_bus.md R104): with INIT = 0 it raises
BusNotInitialized instead of starting. -/
def State.onBus (s started : State) : State :=
  if s.status.init then started else s.raise .busNotInitialized

/-- The completion step (60_exceptions.md R228), the end of `complete()` and of every `raise`. -/
def State.complete (evs : List Event) (s : State) : State :=
  { s with status := s.status.complete evs, eng := .idle, sel := none }

/-! ### The chips' answers (20_memory.md R55; log entry 2) -/

/-- ReadyPoll(c) of the next transaction (40_bus.md R102): true is Ready. Fixed by the head of `answers`, free without. -/
def State.pollReady (s : State) (c : Chip) (hdr : Byte) (out : List Byte) (nin : Nat) : Bool :=
  match s.answers with
  | [] => Config.chipReady s.params.readyBinding s.chipDraws s.history c hdr out nin
  | .timeout :: _ => false
  | .ready _ :: _ => true

/-- All the bytes the RCE sends in a transaction: the header, the bytes of the command, and one dummy 0x00 for each byte to
receive (40_bus.md R100, R103). -/
def sentBytes (hdr : Byte) (out : List Byte) (nin : Nat) : List Byte :=
  hdr :: out ++ List.replicate nin 0x00

/-- `exchange` number k of the next transaction (40_bus.md R100), counting the header as 0: the byte the chip sends while
the RCE sends byte k. -/
def State.exchange (s : State) (c : Chip) (hdr : Byte) (out : List Byte) (nin k : Nat) : Byte :=
  Config.chipByte s.chipDraws s.history c ((sentBytes hdr out nin).take (k + 1)) nin

/-- Byte i of the receive phase. The bytes the chip returns during the header and the sent bytes are discarded (R103), so
byte i is exchange number 1 + len(out) + i; the head of `answers` fixes as many of them as it lists. -/
def State.receive (s : State) (c : Chip) (hdr : Byte) (out : List Byte) (nin i : Nat) : Byte :=
  match s.answers with
  | .ready bs :: _ => bs.getD i (s.exchange c hdr out nin (1 + out.length + i))
  | _ => s.exchange c hdr out nin (1 + out.length + i)

/-- in[0 .. nin-1] of the next transaction (40_bus.md R100). -/
def State.received (s : State) (c : Chip) (hdr : Byte) (out : List Byte) (nin : Nat) : List Byte :=
  (List.range nin).map fun i => s.receive c hdr out nin i

/-! ### BusXfer (40_bus.md R100) -/

/-- The answer of BusXfer. -/
inductive XferResult
  | ok (received : List Byte)
  | timeout
  deriving DecidableEq, Repr

/-- select(): SEL <- c (R100). -/
def State.select (c : Chip) (s : State) : State := { s with sel := some c }

/-- deselect(): SEL <- NONE (R100). -/
def State.deselect (s : State) : State := { s with sel := none }

/-- CS[c], chip c's select line: asserted exactly while SEL = c (10_state.md R40). -/
def State.csAsserted (s : State) (c : Chip) : Bool := s.sel == some c

/-- record BusEvent(…) (R100, R114). -/
def State.record (e : BusEvent) (s : State) : State := { s with history := s.history ++ [e] }

/-- The chip's answer to this transaction is used up (log entry 2). -/
def State.drawn (s : State) : State := { s with answers := s.answers.tail, chipDraws := s.chipDraws + 1 }

/-- The rest of BusXfer after the select: ready poll, bytes, deselect, record (R100). On Timeout no byte is sent. -/
def State.transfer (c : Chip) (hdr : Byte) (out : List Byte) (nin : Nat) (s : State) : XferResult × State :=
  if s.pollReady c hdr out nin then
    (.ok (s.received c hdr out nin),
      (s.deselect.record ⟨c, hdr, out, s.received c hdr out nin, .ok⟩).drawn)
  else
    (.timeout, (s.deselect.record ⟨c, hdr, [], [], .timeout⟩).drawn)

/-- BusXfer(c, hdr, out, nin) (R100). -/
def State.busXfer (c : Chip) (hdr : Byte) (out : List Byte) (nin : Nat) (s : State) : XferResult × State :=
  (s.select c).transfer c hdr out nin

end Sys2Proof.Machine
end

