-- ==== Sys2Proof/Machine/Operands.lean ====
section
/-! DEFINITION. Operand forms: exact arithmetic (00_scope.md R10 to R12), header bytes (40_bus.md R101), the transactions of
the live accessors (41_bitfield.md R136), the field table and its functions (R130 to R135), the RES layouts of 20_memory.md
R53, and what a command does with the bytes it has read. -/

namespace Sys2Proof.Machine

/-! ### Exact arithmetic (00_scope.md R10, R11, R12) -/

/-- sat(lo, hi, v) = min(hi, max(lo, v)) (R10). -/
def sat (lo hi v : Int) : Int := min hi (max lo v)

/-- rhu(num, den) = (2·num + den) div (2·den), den > 0: the nearest integer, a half rounded up (R11). Division is floor
division (R10). -/
def rhu (num den : Int) : Int := (2 * num + den) / (2 * den)

/-- A mantissa: rhu, then saturated to a byte (43_link.md R180). -/
def mantissa (num den : Int) : Nat := (sat 0 255 (rhu num den)).toNat

/-- clampq(q, lo, hi): the clamped quantity, and whether InvalidParameter is flagged (R12). -/
def clampq (q lo hi : Nat) : Nat × Bool := (min hi (max lo q), decide (q < lo) || decide (hi < q))

/-- The loop `while e < start + fuel and not p(e): e <- e + 1` from e = start: the least e with p(e), or start + fuel. -/
def firstFrom (p : Nat → Bool) : Nat → Nat → Nat
  | 0, e => e
  | fuel + 1, e => if p e then e else firstFrom p fuel (e + 1)

/-! ### Header bytes (40_bus.md R101): {RW, BURST, a[5:0]} -/

/-- The header byte. -/
def header (rw burst : BitVec 1) (a : Addr) : Byte := rw ++ burst ++ a

/-- Single write: 0x00 OR a. -/
def hdrWrite (a : Addr) : Byte := header 0 0 a
/-- Single read: 0x80 OR a. -/
def hdrRead (a : Addr) : Byte := header 1 0 a
/-- Burst write: 0x40 OR a. -/
def hdrBurstWrite (a : Addr) : Byte := header 0 1 a
/-- Burst read: 0xC0 OR a. -/
def hdrBurstRead (a : Addr) : Byte := header 1 1 a
/-- Strobe: 0x00 OR a. -/
def hdrStrobe (a : Addr) : Byte := header 0 0 a
/-- Status read: 0xC0 OR a. -/
def hdrStatus (a : Addr) : Byte := header 1 1 a

/-! ### The live accessors (41_bitfield.md R136) -/

/-- LiveRead(c, a), and what the command does with the byte; the command keeps RES on Timeout. -/
def liveRead (c : Chip) (a : Addr) (after : After) : Txn := ⟨c, hdrRead a, .bytes [], 1, after, false⟩

/-- LiveRead(c, a) whose Timeout writes RES <- 0x00000000, the sentinel (D34). -/
def liveReadOrZero (c : Chip) (a : Addr) (after : After) : Txn := ⟨c, hdrRead a, .bytes [], 1, after, true⟩

/-- LiveWrite(c, a, v). -/
def liveWrite (c : Chip) (a : Addr) (v : Byte) : Txn := ⟨c, hdrWrite a, .bytes [v], 0, .nothing, false⟩

/-- LiveWrite(c, a, v) with v the byte the command has computed from one it read. -/
def liveWriteHeld (c : Chip) (a : Addr) : Txn := ⟨c, hdrWrite a, .held, 0, .nothing, false⟩

/-! ### Packed registers (41_bitfield.md R130 to R135) -/

/-- The bits of one field: its lowest bit and its width (R130). -/
structure Slot where
  lo : Nat
  width : Nat
  deriving DecidableEq, Repr

/-- "weight", the source's threshold: the value of the lowest bit (R130). -/
def Slot.weight (sl : Slot) : Nat := 2 ^ sl.lo

/-- "max", the largest raw value (R130). -/
def Slot.max (sl : Slot) : Nat := 2 ^ sl.width - 1

/-- The field table (R130), field 0 first. PKTCTRL0: WHITE_DATA, PKT_FORMAT, CRC_EN, LENGTH_CONFIG. PKTCTRL1: PQT,
CRC_AUTOFLUSH, APPEND_STATUS, ADR_CHK. MDMCFG1: FEC_EN, NUM_PREAMBLE, CHANSPC_E. MDMCFG2: DEM_DCFILT_OFF, MOD_FORMAT,
MANCHESTER_EN, SYNC_MODE. MDMCFG4: CHANBW_E, CHANBW_M, DRATE_E. -/
def slots : PackedReg → List Slot
  | .pktctrl0 => [⟨6, 2⟩, ⟨4, 2⟩, ⟨2, 2⟩, ⟨0, 2⟩]
  | .pktctrl1 => [⟨5, 3⟩, ⟨3, 2⟩, ⟨2, 1⟩, ⟨0, 2⟩]
  | .mdmcfg1 => [⟨7, 1⟩, ⟨4, 3⟩, ⟨0, 4⟩]
  | .mdmcfg2 => [⟨7, 1⟩, ⟨4, 3⟩, ⟨3, 1⟩, ⟨0, 3⟩]
  | .mdmcfg4 => [⟨6, 2⟩, ⟨4, 2⟩, ⟨0, 4⟩]

/-- A(rid), the REGADDR entry of a packed register (R130, 20_memory.md R56). -/
def regAddr (t : RegAddr) : PackedReg → Addr
  | .pktctrl0 => t.aPktctrl0
  | .pktctrl1 => t.aPktctrl1
  | .mdmcfg1 => t.aMdmcfg1
  | .mdmcfg2 => t.aMdmcfg2
  | .mdmcfg4 => t.aMdmcfg4

/-- v[hi:lo] of a field's slot. -/
def slotValue (v : Byte) (sl : Slot) : Nat := (v.extractLsb' sl.lo sl.width).toNat

/-- peel(v, rid): the raw field values, field 0 first (R132). -/
def peel (v : Byte) (r : PackedReg) : List Nat := (slots r).map (slotValue v)

/-- The arithmetic sum of the field encodings raw · weight (R133). -/
def encodingSum (raw : List Nat) (sls : List Slot) : Nat := (List.zipWith (fun x sl => x * sl.weight) raw sls).sum

/-- recompose(raw, rid) (R133). For raw values within their max the sum is at most 255, so no bit is lost. -/
def recompose (raw : List Nat) (r : PackedReg) : Byte := BitVec.ofNat 8 (encodingSum raw (slots r))

/-- max of field fid of register rid (R130). -/
def fieldMax (r : PackedReg) (fid : Nat) : Nat := (((slots r)[fid]?).map Slot.max).getD 0

/-- clampf(val, rid, fid): the clamped value, and whether InvalidParameter is flagged (R134). -/
def clampf (val : Nat) (r : PackedReg) (fid : Nat) : Nat × Bool :=
  (min val (fieldMax r fid), decide (fieldMax r fid < val))

/-- RES with raw value k in byte lane k, the other lanes 0 (R135): the sum of raw[k] << 8k. -/
def lanesOf : List Nat → Nat
  | [] => 0
  | x :: xs => x + 256 * lanesOf xs

/-- The raw values in the byte lanes of OPA_LO, one per field of the register; the lanes above NF(rid) are ignored (R135). -/
def lanesIn (w : Word) (r : PackedReg) : List Nat := (List.range r.nf).map fun k => (lane w k).toNat

/-- FENC's lanes, each clamped as its field's setter would (R138): the raw values, and whether any lane clamped. -/
def clampLanes (w : Word) (r : PackedReg) : List Nat × Bool :=
  let cl := (List.range r.nf).map fun k => clampf (lane w k).toNat r k
  (cl.map Prod.fst, cl.any Prod.snd)

/-- The byte with one field replaced: peel, raw[fid] <- v, recompose (FSET, R141). -/
def replaceField (b : Byte) (r : PackedReg) (fid v : Nat) : Byte := recompose ((peel b r).set fid v) r

/-! ### RES layouts (20_memory.md R53) -/

/-- zext_32 of a byte. -/
def resByte (b : Byte) : Word := b.zeroExtend 32

/-- Raw fields in byte lanes (41_bitfield.md R135). -/
def resLanes (raw : List Nat) : Word := BitVec.ofNat 32 (lanesOf raw)

/-- {0x00, f2, f1, f0} (42_frequency.md R164). -/
def resFreq (f2 f1 f0 : Byte) : Word := 0x00#8 ++ f2 ++ f1 ++ f0

/-- (E << 8) OR M (43_link.md R183, R192). -/
def resExpMant (e m : Nat) : Word := (BitVec.ofNat 32 e <<< 8) ||| BitVec.ofNat 32 m

/-! ### What a command does with a transaction's outcome -/

/-- in[0] of a one-byte read. -/
def firstByte (bs : List Byte) : Byte := bs.headD 0x00

/-- The state after a transaction that answered Ok. -/
def After.apply (a : After) (bs : List Byte) (s : State) : State :=
  match a with
  | .nothing => s
  | .byteToRes => s.setRes (resByte (firstByte bs))
  | .burstToBuf => (s.setBuf (s.buf.writeBytes 0 bs)).setRes (BitVec.ofNat 32 bs.length)
  | .lanesToRes r => s.setRes (resLanes (peel (firstByte bs) r))
  | .fieldToRes r fid => s.setRes (BitVec.ofNat 32 ((peel (firstByte bs) r).getD fid 0))
  | .putField r fid v => s.setRes (resByte (replaceField (firstByte bs) r fid v))
  | .merge _ _ => s

/-- The byte the command has computed so far, after a transaction that answered Ok. -/
def After.hold (a : After) (bs : List Byte) (held : Byte) : Byte :=
  match a with
  | .putField r fid v => replaceField (firstByte bs) r fid v
  | .merge keep new => (firstByte bs &&& keep) ||| new
  | .nothing | .byteToRes | .burstToBuf | .lanesToRes _ | .fieldToRes _ _ => held

/-- The bytes a transaction sends after its header. -/
def Send.resolve (sn : Send) (held : Byte) : List Byte :=
  match sn with
  | .bytes bs => bs
  | .held => [held]

/-- The state after a transaction that answered Timeout: the sentinel where the command's rule writes one (40_bus.md R105,
D34). -/
def Txn.onTimeout (t : Txn) (s : State) : State := if t.zeroResOnTimeout then s.setRes 0x00000000 else s

/-- BusXfer of a transaction of the current command. -/
def Txn.xfer (t : Txn) (held : Byte) (s : State) : XferResult × State :=
  s.busXfer t.chip t.hdr (t.send.resolve held) t.nin

/-! ### Running a command's transactions -/

/-- The transactions of a command in order, each complete before the next (20_memory.md R61), then the completion step. A
Timeout raises TransportTimeout at once: no later transaction is issued (40_bus.md R105). -/
def State.runTxns : List Txn → Byte → List Event → State → State
  | [], _, evs, s => s.complete evs
  | t :: ts, held, evs, s =>
    match t.xfer held s with
    | (.timeout, s') => (t.onTimeout s').complete (addEvent .transportTimeout evs)
    | (.ok bs, s') => State.runTxns ts (t.after.hold bs held) evs (t.after.apply bs s')


/-- The command in progress runs to its end. -/
def State.finish (s : State) : State :=
  match s.eng with
  | .running f => s.runTxns f.todo f.held f.events
  | .accepted => s
  | .idle => s

end Sys2Proof.Machine
end

