-- ==== Sys2Proof/Machine/Bitfield.lean ====
section
/-! DEFINITION. The register bitfield commands (41_bitfield.md R137 to R141). -/

namespace Sys2Proof.Machine

/-! ### FDEC (41_bitfield.md R137) -/

/-- FDEC begins: RES <- the raw fields of the given byte, one per lane. -/
def planFdec (r : PackedReg) (d : Byte) (s : State) : State := (s.setRes (resLanes (peel d r))).start [] []

/-- FDEC rid, d. -/
def execFdec (r : PackedReg) (d : Byte) (s : State) : Host.Outcome State Fault Refusal := .next (planFdec r d s).finish

/-! ### FENC (41_bitfield.md R138) -/

/-- FENC begins: RES <- the recomposed byte of OPA_LO's lanes, each clamped; InvalidParameter is flagged once if any clamped
(60_exceptions.md R222). -/
def planFenc (r : PackedReg) (s : State) : State :=
  let raw := clampLanes s.opaLo r
  (s.setRes (resByte (recompose raw.1 r))).start (clampEvents raw.2) []

/-- FENC rid. -/
def execFenc (r : PackedReg) (s : State) : Host.Outcome State Fault Refusal := .next (planFenc r s).finish

/-! ### DECOMP (41_bitfield.md R139) -/

/-- DECOMP begins: one live read, its raw fields to RES, 0 on Timeout. -/
def planDecomp (c : Chip) (r : PackedReg) (s : State) : State :=
  s.onBus (s.start [] [liveReadOrZero c (regAddr s.params.regaddr r) (.lanesToRes r)])

/-- DECOMP c, rid. -/
def execDecomp (c : Chip) (r : PackedReg) (s : State) : Host.Outcome State Fault Refusal :=
  .next (planDecomp c r s).finish

/-! ### FGET (41_bitfield.md R140) -/

/-- FGET begins: one live read, one raw field to RES, 0 on Timeout. -/
def planFget (c : Chip) (r : PackedReg) (fid : Nat) (s : State) : State :=
  s.onBus (s.start [] [liveReadOrZero c (regAddr s.params.regaddr r) (.fieldToRes r fid)])

/-- FGET c, rid.fid. -/
def execFget (c : Chip) (r : PackedReg) (fid : Nat) (s : State) : Host.Outcome State Fault Refusal :=
  .next (planFget c r fid s).finish

/-! ### FSET (41_bitfield.md R141) -/

/-- FSET begins: the value is clamped before the read; then a live read, whose Timeout gives RES = 0 and no write, and a live
write of the byte with the field replaced. -/
def planFset (c : Chip) (r : PackedReg) (fid : Nat) (val : Byte) (s : State) : State :=
  let v := clampf val.toNat r fid
  s.onBus (s.start (clampEvents v.2)
    [liveReadOrZero c (regAddr s.params.regaddr r) (.putField r fid v.1), liveWriteHeld c (regAddr s.params.regaddr r)])

/-- FSET c, rid.fid, val. -/
def execFset (c : Chip) (r : PackedReg) (fid : Nat) (val : Byte) (s : State) : Host.Outcome State Fault Refusal :=
  .next (planFset c r fid val s).finish

end Sys2Proof.Machine
end

