-- ==== Sys2Proof/Machine/Bus.lean ====
section
/-! DEFINITION. The control and bus-transaction commands (40_bus.md). `plan…` is the command up to its first transaction: what
it writes at once, the events it flags, and the transactions it will issue; `exec…` runs it to its completion (60_exceptions.md
R228: a command is one step of the engine). -/

namespace Sys2Proof.Machine

/-! ### NOP (40_bus.md R106) -/

/-- NOP begins: nothing but complete(). -/
def planNop (s : State) : State := s.start [] []

/-- NOP. -/
def execNop (s : State) : Host.Outcome State Fault Refusal := .next (planNop s).finish

/-! ### BUS_INIT (40_bus.md R107) -/

/-- Configuring the bus lines, once: every CS[c] deasserted, clock and data-out idle, INIT <- 1; with INIT = 1 no action of
any kind (R107). -/
def State.configureBus (s : State) : State :=
  if s.status.init then s
  else { s with status := { s.status with init := true }, sel := none, lines := .idle }

/-- BUS_INIT begins. -/
def planBusInit (s : State) : State := s.configureBus.start [] []

/-- BUS_INIT. -/
def execBusInit (s : State) : Host.Outcome State Fault Refusal := .next (planBusInit s).finish

/-! ### WR_REG (40_bus.md R108) -/

/-- WR_REG begins: one single write. -/
def planWrReg (c : Chip) (a : Addr) (d : Byte) (s : State) : State :=
  s.onBus (s.start [] [⟨c, hdrWrite a, .bytes [d], 0, .nothing, false⟩])

/-- WR_REG c, a, d. -/
def execWrReg (c : Chip) (a : Addr) (d : Byte) (s : State) : Host.Outcome State Fault Refusal :=
  .next (planWrReg c a d s).finish

/-! ### RD_REG (40_bus.md R109) -/

/-- RD_REG begins: one single read, its byte to RES, 0 on Timeout. -/
def planRdReg (c : Chip) (a : Addr) (s : State) : State :=
  s.onBus (s.start [] [⟨c, hdrRead a, .bytes [], 1, .byteToRes, true⟩])

/-- RD_REG c, a. -/
def execRdReg (c : Chip) (a : Addr) (s : State) : Host.Outcome State Fault Refusal :=
  .next (planRdReg c a s).finish

/-! ### WR_BURST (40_bus.md R110) -/

/-- WR_BURST begins: one burst write of BUF[0] to BUF[n-1]. -/
def planWrBurst (c : Chip) (a : Addr) (n : Nat) (s : State) : State :=
  s.onBus (s.start [] [⟨c, hdrBurstWrite a, .bytes (s.buf.readBytes 0 n), 0, .nothing, false⟩])

/-- WR_BURST c, a, n. -/
def execWrBurst (c : Chip) (a : Addr) (n : Nat) (s : State) : Host.Outcome State Fault Refusal :=
  .next (planWrBurst c a n s).finish

/-! ### RD_BURST (40_bus.md R111) -/

/-- RD_BURST begins: one burst read of n bytes into BUF, its count to RES, 0 on Timeout. -/
def planRdBurst (c : Chip) (a : Addr) (n : Nat) (s : State) : State :=
  s.onBus (s.start [] [⟨c, hdrBurstRead a, .bytes [], n, .burstToBuf, true⟩])

/-- RD_BURST c, a, n. -/
def execRdBurst (c : Chip) (a : Addr) (n : Nat) (s : State) : Host.Outcome State Fault Refusal :=
  .next (planRdBurst c a n s).finish

/-! ### STROBE (40_bus.md R112) -/

/-- STROBE begins: a header with no data byte. -/
def planStrobe (c : Chip) (a : Addr) (s : State) : State :=
  s.onBus (s.start [] [⟨c, hdrStrobe a, .bytes [], 0, .nothing, false⟩])

/-- STROBE c, a. -/
def execStrobe (c : Chip) (a : Addr) (s : State) : Host.Outcome State Fault Refusal :=
  .next (planStrobe c a s).finish

/-! ### RD_STATUS (40_bus.md R113) -/

/-- RD_STATUS begins: one status read, its byte to RES, 0 on Timeout. -/
def planRdStatus (c : Chip) (a : Addr) (s : State) : State :=
  s.onBus (s.start [] [⟨c, hdrStatus a, .bytes [], 1, .byteToRes, true⟩])

/-- RD_STATUS c, a. -/
def execRdStatus (c : Chip) (a : Addr) (s : State) : Host.Outcome State Fault Refusal :=
  .next (planRdStatus c a s).finish

end Sys2Proof.Machine
end

