-- ==== Sys2Proof/Machine/Frequency.lean ====
section
/-! DEFINITION. The frequency synthesizer word (42_frequency.md R160 to R163) and its commands (R164, R165). -/

namespace Sys2Proof.Machine

/-- The three bytes of a frequency word, and whether the input was clamped. -/
structure FreqWord where
  f2 : Byte
  f1 : Byte
  f0 : Byte
  clamped : Bool
  deriving DecidableEq, Repr

/-- The counts of the greedy reduction of an input within FMAX, in the closed form R161 gives beside its loops: high, mid,
low. The carry of a low count above 255 into the mid count stays, as R162 has it. -/
def freqCounts (f : Nat) : Nat × Nat × Nat :=
  let f2 := f / Config.freqS2
  let f1 := f % Config.freqS2 / Config.freqS1
  let f0 := f % Config.freqS2 % Config.freqS1 / Config.freqS0
  if f0 > 255 then (f2, f1 + 1, f0 - 256) else (f2, f1, f0)

/-- freqword(f) (R161): an input above FMAX is clamped to it and flagged; the remainder is discarded. -/
def freqword (f : Nat) : FreqWord :=
  let q := clampq f 0 Config.freqMax
  let k := freqCounts q.1
  ⟨BitVec.ofNat 8 k.1, BitVec.ofNat 8 k.2.1, BitVec.ofNat 8 k.2.2, q.2⟩

/-- One of R161's loops, `while f >= step: f <- f - step; n <- n + 1`, with the number of turns it may still take: the count
and the remainder. -/
def subtractLoop (step : Nat) : Nat → Nat → Nat → Nat × Nat
  | 0, f, n => (n, f)
  | fuel + 1, f, n => if step ≤ f then subtractLoop step fuel (f - step) (n + 1) else (n, f)

/-- The counts by R161's own loops, each of at most 255 turns (43_link.md R194). The reference the closed form is held to. -/
def freqCountsByLoops (f : Nat) : Nat × Nat × Nat :=
  let r2 := subtractLoop Config.freqS2 255 f 0
  let r1 := subtractLoop Config.freqS1 255 r2.2 0
  let r0 := subtractLoop Config.freqS0 255 r1.2 0
  if r0.1 > 255 then (r2.1, r1.1 + 1, r0.1 - 256) else (r2.1, r1.1, r0.1)

/-! ### FREQ_ENC (42_frequency.md R164) -/

/-- FREQ_ENC begins: RES <- the word of OPA. -/
def planFreqEnc (s : State) : State :=
  let k := freqword s.opa
  (s.setRes (resFreq k.f2 k.f1 k.f0)).start (clampEvents k.clamped) []

/-- FREQ_ENC. -/
def execFreqEnc (s : State) : Host.Outcome State Fault Refusal := .next (planFreqEnc s).finish

/-! ### SET_FREQ (42_frequency.md R165) -/

/-- SET_FREQ begins: RES <- the word of OPA; then three single writes, high, mid, low. -/
def planSetFreq (c : Chip) (s : State) : State :=
  let k := freqword s.opa
  s.onBus ((s.setRes (resFreq k.f2 k.f1 k.f0)).start (clampEvents k.clamped)
    [liveWrite c s.params.regaddr.aFreq2 k.f2,
     liveWrite c s.params.regaddr.aFreq1 k.f1,
     liveWrite c s.params.regaddr.aFreq0 k.f0])

/-- SET_FREQ c. -/
def execSetFreq (c : Chip) (s : State) : Host.Outcome State Fault Refusal := .next (planSetFreq c s).finish

end Sys2Proof.Machine
end

