-- ==== Sys2Proof/Machine/Link.lean ====
section
/-! DEFINITION. The link-parameter codec (43_link.md): the four encoders in the integer forms their rules give (R180), the
rules' own loops over exact rationals as the reference the integer forms are held to, and the commands. -/

namespace Sys2Proof.Machine

/-- An exponent and a mantissa, and whether the input was clamped. -/
structure ExpMant where
  e : Nat
  m : Nat
  clamped : Bool
  deriving DecidableEq, Repr

/-! ### Data rate (43_link.md R182) -/

/-- The halvings of a clamped data rate: the least E with 256·c <= 511·DR_L·2^E, capped at 15. -/
def drateExp (c : Nat) : Nat := firstFrom (fun e => 256 * c ≤ 511 * Config.drL * 2 ^ e) 15 0

/-- The mantissa of a clamped data rate at exponent E. -/
def drateMant (c e : Nat) : Nat := mantissa (256 * ((c : Int) - Config.drL * 2 ^ e)) (Config.drL * 2 ^ e)

/-- drate(c), integer form. -/
def drate (c : Nat) : ExpMant :=
  let q := clampq c Config.drL Config.drU
  ⟨drateExp q.1, drateMant q.1 (drateExp q.1), q.2⟩

/-- The loop `while E < cap and v > t: v <- v / 2; E <- E + 1` on an exact rational, with the halvings it may still do: E
and v at its end (R182, R191). -/
def halvingLoop (t : ℚ) : Nat → ℚ → Nat → Nat × ℚ
  | 0, v, e => (e, v)
  | fuel + 1, v, e => if t < v then halvingLoop t fuel (v / 2) (e + 1) else (e, v)

/-- floor(x + 1/2), the rounding rhu stands for (00_scope.md R11). -/
def roundHalfUp (x : ℚ) : Int := (x + 1 / 2).floor

/-- R182's loop and mantissa on a clamped data rate, in exact rationals. -/
def drateByLoop (c : Nat) : Nat × Int :=
  let r := halvingLoop (511 / 256 * Config.drL) 15 c 0
  (r.1, sat 0 255 (roundHalfUp (256 * (r.2 - Config.drL) / Config.drL)))

/-! ### Deviation (43_link.md R185) -/

/-- value(k) >= d, in the integer form (8 + m)·2^e·DV_U >= 1920·d with e = k div 8 and m = k mod 8. -/
def devReaches (d k : Nat) : Bool := 1920 * d ≤ (8 + k % 8) * 2 ^ (k / 8) * Config.dvU

/-- The step index a clamped deviation reaches, of at most 64 steps. -/
def devIndex (d : Nat) : Nat := firstFrom (devReaches d) 64 0

/-- The register byte of a step index: (e << 4) OR m; 0x77 after the last step. -/
def devByte (k : Nat) : Byte :=
  if k < 64 then (BitVec.ofNat 8 (k / 8) <<< 4) ||| BitVec.ofNat 8 (k % 8) else 0x77

/-- dev(d): the register byte, and whether the input was clamped. -/
def dev (d : Nat) : Byte × Bool :=
  let q := clampq d Config.dvL Config.dvU
  (devByte (devIndex q.1), q.2)

/-- value(k) = (8 + m)·2^e·DV_U / 1920, exact. -/
def devValue (k : Nat) : ℚ := (8 + k % 8 : Nat) * 2 ^ (k / 8) * Config.dvU / 1920

/-! ### Receive bandwidth (43_link.md R188) -/

/-- The halvings of pass 1, at most 3: while f > BW_T1·2^a. -/
def bwHalvings (f : Nat) : Nat := firstFrom (fun a => f ≤ Config.bwT1 * 2 ^ a) 3 0

/-- The divisions by 1.25 of pass 2, at most 3, after a halvings: while f·4^b > BW_T2·2^a·5^b. -/
def bwScalings (f a : Nat) : Nat := firstFrom (fun b => f * 4 ^ b ≤ Config.bwT2 * 2 ^ a * 5 ^ b) 3 0

/-- (s1 << 6) OR (s2 << 4) of the two indexes. -/
def bwNibble (s1 s2 : Nat) : Byte := (BitVec.ofNat 8 s1 <<< 6) ||| (BitVec.ofNat 8 s2 <<< 4)

/-- bw(f): the packed nibble in place. There is no clamp. -/
def bw (f : Nat) : Byte :=
  let a := bwHalvings f
  bwNibble (3 - a) (3 - bwScalings f a)

/-- One pass of R188 on an exact rational: at most so many divisions by the divisor, each taken while v > t; the index and v. -/
def bwPass (t divisor : ℚ) : Nat → ℚ → Nat → Nat × ℚ
  | 0, v, i => (i, v)
  | fuel + 1, v, i => if t < v then bwPass t divisor fuel (v / divisor) (i - 1) else (i, v)

/-- R188's two passes in exact rationals: s1 and s2. -/
def bwByPasses (f : Nat) : Nat × Nat :=
  let p1 := bwPass Config.bwT1 2 3 f 3
  let p2 := bwPass Config.bwT2 (5 / 4) 3 p1.2 3
  (p1.1, p2.1)

/-! ### Channel spacing (43_link.md R191) -/

/-- The halvings of a clamped spacing: the least E with s <= CS_T·2^E, capped at 3. -/
def chspExp (q : Nat) : Nat := firstFrom (fun e => q ≤ Config.csT * 2 ^ e) 3 0

/-- The mantissa of a clamped spacing at exponent E. -/
def chspMant (q e : Nat) : Nat :=
  mantissa (255 * ((q : Int) - Config.csL * 2 ^ e)) (((Config.csT : Int) - Config.csL) * 2 ^ e)

/-- chsp(s), integer form. -/
def chsp (q : Nat) : ExpMant :=
  let k := clampq q Config.csL Config.csU
  ⟨chspExp k.1, chspMant k.1 (chspExp k.1), k.2⟩

/-- R191's loop and mantissa on a clamped spacing, in exact rationals. -/
def chspByLoop (q : Nat) : Nat × Int :=
  let r := halvingLoop Config.csT 3 q 0
  (r.1, sat 0 255 (roundHalfUp (255 * (r.2 - Config.csL) / (Config.csT - Config.csL))))

/-! ### Decode maps (43_link.md R195): the values the codes stand for; not commands -/

/-- dr_value(E, M) = DR_L·2^E·(256 + M)/256. -/
def drValue (e m : Nat) : ℚ := Config.drL * 2 ^ e * (256 + m) / 256

/-- cs_value(E, M) = (CS_L + M·(CS_T − CS_L)/255)·2^E. -/
def csValue (e m : Nat) : ℚ := (Config.csL + m * ((Config.csT : ℚ) - Config.csL) / 255) * 2 ^ e

/-! ### DRATE_ENC (43_link.md R183) and SET_DRATE (R184) -/

/-- DRATE_ENC begins. -/
def planDrateEnc (s : State) : State :=
  let k := drate s.opa
  (s.setRes (resExpMant k.e k.m)).start (clampEvents k.clamped) []

/-- DRATE_ENC. -/
def execDrateEnc (s : State) : Host.Outcome State Fault Refusal := .next (planDrateEnc s).finish

/-- SET_DRATE begins: RES at once; then a live read of MDMCFG4, the write of its high nibble with E, and the write of M to
MDMCFG3. -/
def planSetDrate (c : Chip) (s : State) : State :=
  let k := drate s.opa
  s.onBus ((s.setRes (resExpMant k.e k.m)).start (clampEvents k.clamped)
    [liveRead c s.params.regaddr.aMdmcfg4 (.merge 0xF0 (BitVec.ofNat 8 k.e)),
     liveWriteHeld c s.params.regaddr.aMdmcfg4,
     liveWrite c s.params.regaddr.aMdmcfg3 (BitVec.ofNat 8 k.m)])

/-- SET_DRATE c. -/
def execSetDrate (c : Chip) (s : State) : Host.Outcome State Fault Refusal := .next (planSetDrate c s).finish

/-! ### DEV_ENC (43_link.md R186) and SET_DEV (R187) -/

/-- DEV_ENC begins. -/
def planDevEnc (s : State) : State :=
  let k := dev s.opa
  (s.setRes (resByte k.1)).start (clampEvents k.2) []

/-- DEV_ENC. -/
def execDevEnc (s : State) : Host.Outcome State Fault Refusal := .next (planDevEnc s).finish

/-- SET_DEV begins: RES at once; then DEVIATN is written whole. -/
def planSetDev (c : Chip) (s : State) : State :=
  let k := dev s.opa
  s.onBus ((s.setRes (resByte k.1)).start (clampEvents k.2) [liveWrite c s.params.regaddr.aDeviatn k.1])

/-- SET_DEV c. -/
def execSetDev (c : Chip) (s : State) : Host.Outcome State Fault Refusal := .next (planSetDev c s).finish

/-! ### BW_ENC (43_link.md R189) and SET_BW (R190) -/

/-- BW_ENC begins. -/
def planBwEnc (s : State) : State := (s.setRes (resByte (bw s.opa))).start [] []

/-- BW_ENC. -/
def execBwEnc (s : State) : Host.Outcome State Fault Refusal := .next (planBwEnc s).finish

/-- SET_BW begins: RES at once; then a live read of MDMCFG4 and the write of its low nibble with the bandwidth nibble. -/
def planSetBw (c : Chip) (s : State) : State :=
  s.onBus ((s.setRes (resByte (bw s.opa))).start []
    [liveRead c s.params.regaddr.aMdmcfg4 (.merge 0x0F (bw s.opa)), liveWriteHeld c s.params.regaddr.aMdmcfg4])

/-- SET_BW c. -/
def execSetBw (c : Chip) (s : State) : Host.Outcome State Fault Refusal := .next (planSetBw c s).finish

/-! ### CHSP_ENC (43_link.md R192) and SET_CHSP (R193) -/

/-- CHSP_ENC begins. -/
def planChspEnc (s : State) : State :=
  let k := chsp s.opa
  (s.setRes (resExpMant k.e k.m)).start (clampEvents k.clamped) []

/-- CHSP_ENC. -/
def execChspEnc (s : State) : Host.Outcome State Fault Refusal := .next (planChspEnc s).finish

/-- SET_CHSP begins: RES at once; then a live read of MDMCFG1, the write of its high nibble with E in the CHANSPC_E slot, and
the write of M to MDMCFG0. -/
def planSetChsp (c : Chip) (s : State) : State :=
  let k := chsp s.opa
  s.onBus ((s.setRes (resExpMant k.e k.m)).start (clampEvents k.clamped)
    [liveRead c s.params.regaddr.aMdmcfg1 (.merge 0xF0 (BitVec.ofNat 8 k.e)),
     liveWriteHeld c s.params.regaddr.aMdmcfg1,
     liveWrite c s.params.regaddr.aMdmcfg0 (BitVec.ofNat 8 k.m)])

/-- SET_CHSP c. -/
def execSetChsp (c : Chip) (s : State) : Host.Outcome State Fault Refusal := .next (planSetChsp c s).finish

end Sys2Proof.Machine
end

