-- ==== Sys2Proof/Machine/Dispatch.lean ====
section
/-! DEFINITION. The dispatch: one arm per constructor of Instr, each one direct call of its meaning. -/

namespace Sys2Proof.Machine

/-- The engine runs a decoded command from its beginning to its completion. -/
def exec (i : Instr) (s : State) : Host.Outcome State Fault Refusal :=
  match i with
  | .nop => Sys2Proof.Machine.execNop s
  | .busInit => Sys2Proof.Machine.execBusInit s
  | .wrReg c a d => Sys2Proof.Machine.execWrReg c a d s
  | .rdReg c a => Sys2Proof.Machine.execRdReg c a s
  | .wrBurst c a n => Sys2Proof.Machine.execWrBurst c a n s
  | .rdBurst c a n => Sys2Proof.Machine.execRdBurst c a n s
  | .strobe c a => Sys2Proof.Machine.execStrobe c a s
  | .rdStatus c a => Sys2Proof.Machine.execRdStatus c a s
  | .fdec r d => Sys2Proof.Machine.execFdec r d s
  | .fenc r => Sys2Proof.Machine.execFenc r s
  | .decomp c r => Sys2Proof.Machine.execDecomp c r s
  | .fget c r fid => Sys2Proof.Machine.execFget c r fid s
  | .fset c r fid val => Sys2Proof.Machine.execFset c r fid val s
  | .freqEnc => Sys2Proof.Machine.execFreqEnc s
  | .setFreq c => Sys2Proof.Machine.execSetFreq c s
  | .drateEnc => Sys2Proof.Machine.execDrateEnc s
  | .setDrate c => Sys2Proof.Machine.execSetDrate c s
  | .devEnc => Sys2Proof.Machine.execDevEnc s
  | .setDev c => Sys2Proof.Machine.execSetDev c s
  | .bwEnc => Sys2Proof.Machine.execBwEnc s
  | .setBw c => Sys2Proof.Machine.execSetBw c s
  | .chspEnc => Sys2Proof.Machine.execChspEnc s
  | .setChsp c => Sys2Proof.Machine.execSetChsp c s

end Sys2Proof.Machine
end

