-- ==== Sys2Proof/Machine/Engine.lean ====
section
/-! DEFINITION. The engine agent (00_scope.md R5, 10_state.md R37): decoding the accepted word (30_encoding.md R74), running a
command as one step (60_exceptions.md R228), and the engine's finer phases, between which a host access or a reset may land. -/

namespace Sys2Proof.Machine

/-- A decoded command up to its first transaction: the same `plan…` its meaning runs to completion. -/
def plan (i : Instr) (s : State) : State :=
  match i with
  | .nop => planNop s
  | .busInit => planBusInit s
  | .wrReg c a d => planWrReg c a d s
  | .rdReg c a => planRdReg c a s
  | .wrBurst c a n => planWrBurst c a n s
  | .rdBurst c a n => planRdBurst c a n s
  | .strobe c a => planStrobe c a s
  | .rdStatus c a => planRdStatus c a s
  | .fdec r d => planFdec r d s
  | .fenc r => planFenc r s
  | .decomp c r => planDecomp c r s
  | .fget c r fid => planFget c r fid s
  | .fset c r fid val => planFset c r fid val s
  | .freqEnc => planFreqEnc s
  | .setFreq c => planSetFreq c s
  | .drateEnc => planDrateEnc s
  | .setDrate c => planSetDrate c s
  | .devEnc => planDevEnc s
  | .setDev c => planSetDev c s
  | .bwEnc => planBwEnc s
  | .setBw c => planSetBw c s
  | .chspEnc => planChspEnc s
  | .setChsp c => planSetChsp c s

/-- The accepted word raises IllegalCommand (30_encoding.md R74, 60_exceptions.md R223): nothing executes, no transaction. -/
def State.illegal (s : State) : State := s.raise .illegalCommand

/-- A command that issues no transaction completes in the phase that decodes it, so that nothing of it shows before its
completion step (60_exceptions.md R228; 10_state.md R32 for BUS_INIT). -/
def State.settle (s : State) : State :=
  match s.eng with
  | .running ⟨[], _, evs⟩ => s.complete evs
  | .running ⟨_ :: _, _, _⟩ => s
  | .accepted => s
  | .idle => s

/-- The engine starts the accepted command (10_state.md R21, 30_encoding.md R74). -/
def State.begin (s : State) : State :=
  match decode s.cmd with
  | .error _ => s.illegal.settle
  | .ok i => (plan i s).settle

/-- The engine runs its command to the end, as one step (60_exceptions.md R228). Idle, it does nothing. -/
def State.runEngine (s : State) : Host.Outcome State Fault Refusal :=
  match s.eng with
  | .idle => .next s
  | .accepted =>
    match decode s.cmd with
    | .error _ => .next s.illegal.finish
    | .ok i => exec i s
  | .running _ => .next s.finish

/-- A transaction whose chip is selected: its poll and its bytes, and what the command does with the outcome. On Timeout the
command raises TransportTimeout, and no transaction is left (40_bus.md R105). -/
def State.transferPhase (t : Txn) (ts : List Txn) (f : Flight) (s : State) : State :=
  match s.transfer t.chip t.hdr (t.send.resolve f.held) t.nin with
  | (.timeout, s') => (t.onTimeout s').setEng (.running ⟨[], f.held, addEvent .transportTimeout f.events⟩)
  | (.ok bs, s') => (t.after.apply bs s').setEng (.running ⟨ts, t.after.hold bs f.held, f.events⟩)

/-- The engine moves by one phase: it decodes the accepted word, selects a chip, does the selected transaction, or completes
the command (log entry 3). -/
def State.phase (s : State) : State :=
  match s.eng with
  | .idle => s
  | .accepted => s.begin
  | .running f =>
    match f.todo with
    | [] => s.complete f.events
    | t :: ts =>
      match s.sel with
      | none => s.select t.chip
      | some _ => s.transferPhase t ts f

end Sys2Proof.Machine
end

