-- ==== Sys2Proof/Machine/HostPort.lean ====
section
/-! DEFINITION. The host interface: the register map and its reads and writes (10_state.md R20 to R36, 20_memory.md R51, R52,
60_exceptions.md R224), reset (70_reset_and_hazards.md R250, R251), what an observation reads (40_bus.md R114), and the host's
pseudo-instructions as lists of accesses (30_encoding.md R78). -/

namespace Sys2Proof.Machine

/-- The registers of the map (10_state.md R20). -/
inductive HostReg
  | cmd
  | status
  | opaLo
  | opaHi
  | res
  | reserved
  | buf (k : Nat)
  deriving DecidableEq, Repr

/-- The register at an offset, for a 32-bit access at a multiple of 4 below 0x80; none for any other access, which the model
refuses (20_memory.md R51). -/
def hostReg (offset width : Nat) : Option HostReg :=
  if width = 4 ∧ offset % 4 = 0 ∧ offset < 0x80 then
    some (if offset = 0x00 then .cmd
      else if offset = 0x04 then .status
      else if offset = 0x08 then .opaLo
      else if offset = 0x0C then .opaHi
      else if offset = 0x10 then .res
      else if offset < 0x40 then .reserved
      else .buf ((offset - 0x40) / 4))
  else none

/-- The value a read of a register returns (10_state.md R20 to R36). RES and BUF return an unspecified value while BUSY = 1
(R23, R35; log entry 4); reserved offsets return 0 whatever BUSY is (R36). -/
def State.regValue (s : State) (offset : Nat) : HostReg → Word
  | .cmd => s.cmd
  | .status => s.status.word
  | .opaLo => s.opaLo
  | .opaHi => s.opaHi
  | .res => if s.status.busy then Config.busyRead s.readDraws offset else s.res
  | .reserved => 0x00000000
  | .buf k => if s.status.busy then Config.busyRead s.readDraws offset else s.buf.readWord k

/-- The host's read returned v; a value that was drawn is used up. A read has no other effect (20_memory.md R59). -/
def State.returned (v : Word) (s : State) : State :=
  { s with rdata := some v, readDraws := s.readDraws + 1 }

/-- MemRead(offset, width) (00_scope.md R9). -/
def hostRead (offset width : Nat) (s : State) : Host.Outcome State Fault Refusal :=
  match hostReg offset width with
  | none => .refused (.undefinedHostAccess offset width)
  | some r => .next (s.returned (s.regValue offset r))

/-- A command is accepted: CMD takes the word, BUSY <- 1, DONE <- 0, and the engine starts it (10_state.md R21). -/
def State.accept (w : Word) (s : State) : State :=
  { s with cmd := w, status := s.status.accept, eng := .accepted }

/-- A host write is dropped and CommandOverrun is flagged (60_exceptions.md R224). -/
def State.overrun (s : State) : State := { s with status := s.status.overrun }

/-- The effect of a write on a register (10_state.md R20 to R36). -/
def State.writeReg (v : Word) (s : State) : HostReg → State
  | .cmd => if s.status.busy then s.overrun else s.accept v
  | .status => { s with status := s.status.writeOneToClear v }
  | .opaLo => if s.status.busy then s.overrun else { s with opaLo := v }
  | .opaHi => if s.status.busy then s.overrun else { s with opaHi := v }
  | .res => s
  | .reserved => s
  | .buf k => if s.status.busy then s.overrun else s.setBuf (s.buf.writeWord k v)

/-- MemWrite(offset, width, value) (00_scope.md R9). -/
def hostWrite (offset width : Nat) (v : Word) (s : State) : Host.Outcome State Fault Refusal :=
  match hostReg offset width with
  | none => .refused (.undefinedHostAccess offset width)
  | some r => .next (s.writeReg v r)

/-- Reset: every piece of RCE state takes its reset value, also inside a command, which it ends with no completion step
(70_reset_and_hazards.md R250, R251). The parameters stay (log entry 10), and what is outside the RCE goes on: the inputs and
the chips' answers still to come, the value the host has read, and the indexes of the free values (log entry 8). -/
def State.resetRce (s : State) : State :=
  { State.reset with
    params := s.params
    inputs := s.inputs
    answers := s.answers
    rdata := s.rdata
    chipDraws := s.chipDraws
    readDraws := s.readDraws }

/-- What an observation of a command sequence reads: the bus history, STATUS, RES and BUF (40_bus.md R114). -/
structure Observation where
  history : List BusEvent
  status : Word
  res : Word
  buf : Memory
  deriving DecidableEq, Repr

/-- The observation of a state (40_bus.md R114). -/
def State.observation (s : State) : Observation := ⟨s.history, s.status.word, s.res, s.buf⟩

/-! ### The host's pseudo-instructions (30_encoding.md R78) -/

/-- `cmd X`. -/
def Pseudo.cmd (i : Instr) : List Input := [.write 0x00 4 (encode i)]
/-- `wait`. -/
def Pseudo.wait : List Input := [.wait]
/-- `do X`: `cmd X` then `wait`. -/
def Pseudo.run (i : Instr) : List Input := Pseudo.cmd i ++ Pseudo.wait
/-- `opa q`, with N = q × 10^8 already computed: both halves, the low one first. -/
def Pseudo.opa (n : BitVec 64) : List Input :=
  [.write 0x08 4 (n.extractLsb' 0 32), .write 0x0C 4 (n.extractLsb' 32 32)]
/-- `opalo v`. -/
def Pseudo.opalo (v : Word) : List Input := [.write 0x08 4 v]
/-- `buf k, b0, b1, b2, b3`. -/
def Pseudo.buf (k : Nat) (b0 b1 b2 b3 : Byte) : List Input :=
  [.write (0x40 + 4 * k) 4 (wordOfLanes b0 b1 b2 b3)]
/-- `clr`: clears DONE, TIMEOUT, CLAMP, ILLEGAL, OVR, NOINIT. -/
def Pseudo.clr : List Input := [.write 0x04 4 0x0000007E]
/-- `X.q c, q` and `X.q q`: `opa q` then `do X`. -/
def Pseudo.quantity (i : Instr) (n : BitVec 64) : List Input := Pseudo.opa n ++ Pseudo.run i

end Sys2Proof.Machine
end

