-- ==== Sys2Proof/Machine/Step.lean ====
section
/-! DEFINITION. One step of the machine. The head of `inputs` says whose turn it is: a host access or a reset happens, the
engine moves by a phase, or the host polls. With nothing to come the engine runs its command to the end (log entries 1, 3, 7). -/

namespace Sys2Proof.Machine

/-- The inputs still to come after the one at the head has happened. -/
def State.next (rest : List Input) (s : State) : State := { s with inputs := rest }

/-- `wait` (30_encoding.md R78): while BUSY = 1 the engine runs, and the host goes on polling; then the host's read of STATUS
returns. -/
def State.poll (rest : List Input) (s : State) : Host.Outcome State Fault Refusal :=
  if s.status.busy then s.runEngine else hostRead 0x04 4 (s.next rest)

/-- One step. -/
def step (s : State) : Host.Outcome State Fault Refusal :=
  match s.inputs with
  | [] => s.runEngine
  | .read offset width :: rest => hostRead offset width (s.next rest)
  | .write offset width v :: rest => hostWrite offset width v (s.next rest)
  | .wait :: rest => s.poll rest
  | .reset :: rest => .next (s.next rest).resetRce
  | .phase :: rest => .next (s.next rest).phase

/-- The state in which a command word has just been accepted and nothing else comes from outside, so that the next step
decodes and runs it (log entry 7). CMD, BUSY, DONE and ENG are what the host's write of CMD sets (10_state.md R21). -/
def State.withFetchWord (s : State) (nbits w : Nat) : State :=
  { s.accept (BitVec.ofNat 32 (w % 2 ^ nbits)) with inputs := [] }

end Sys2Proof.Machine
end

