-- ==== Sys2Proof/Safety.lean ====
section
/-! DEFINITION. What counts as a well-kept state (the invariant of every step), and the words in which the statements describe
a state after a transaction and after a command. -/

namespace Sys2Proof.Machine

/-- The bytes a transaction moves after its header (70_reset_and_hazards.md R259). -/
def Txn.dataBytes (t : Txn) : Nat :=
  (match t.send with
    | .bytes bs => bs.length
    | .held => 1) + t.nin

/-- A recorded transaction: at most 64 data bytes (R259), and a timed-out one moved none (40_bus.md R114). -/
def BusEventOk (e : BusEvent) : Prop :=
  e.sent.length + e.received.length ≤ Config.maxBurst ∧
    (e.outcome = .timeout → e.sent = [] ∧ e.received = [])

/-- The invariant of the machine. -/
structure State.Inv (s : State) : Prop where
  /-- BUF is in its canonical form. -/
  bufWf : s.buf.wf = true
  /-- ENG is EXEC exactly while BUSY = 1 (10_state.md R37). -/
  busyIffExec : s.status.busy = true ↔ s.eng ≠ .idle
  /-- BUSY and DONE are never both 1 (10_state.md R26). -/
  notBusyAndDone : ¬ (s.status.busy = true ∧ s.status.done = true)
  /-- A chip is selected only by a transaction of the current command, and it is that transaction's chip (10_state.md R37,
  20_memory.md R62). -/
  selIsCurrent : ∀ c, s.sel = some c → ∃ f t ts, s.eng = .running f ∧ f.todo = t :: ts ∧ t.chip = c
  /-- The bus lines are configured exactly once INIT = 1 (40_bus.md R107). -/
  initIffLines : s.status.init = true ↔ s.lines = .idle
  /-- CAUSE is 0 or the code of an event a command can raise or flag (10_state.md R33, 60_exceptions.md R220). -/
  causeLegal : s.status.cause ∈ [(0 : BitVec 4), 1, 2, 3, 5]
  /-- The current command has at most three transactions left, each of at most 64 data bytes (70_reset_and_hazards.md R259),
  and has any only if the bus is initialised (40_bus.md R104). -/
  flightOk : ∀ f, s.eng = .running f →
    f.todo.length ≤ 3 ∧ (∀ t ∈ f.todo, t.dataBytes ≤ Config.maxBurst) ∧ (f.todo ≠ [] → s.status.init = true)
  /-- Every recorded transaction is one the RCE can make. -/
  historyOk : ∀ e ∈ s.history, BusEventOk e
  /-- No transaction is issued before BUS_INIT (70_reset_and_hazards.md R252). -/
  historyAfterInit : s.history ≠ [] → s.status.init = true

/-- A state after one recorded transaction: deselected, the transaction at the end of the history, its answer used up. -/
def State.afterXfer (e : BusEvent) (s : State) : State :=
  { s with
    sel := none
    history := s.history ++ [e]
    answers := s.answers.tail
    chipDraws := s.chipDraws + 1 }

/-- A state after the completion of a command that left this value in RES and recorded these events. -/
def State.completed (res : Word) (evs : List Event) (s : State) : State :=
  { s with res := res, status := s.status.complete evs, eng := .idle, sel := none }

/-- Byte 0 of the answer to a one-byte read with this header. -/
def State.answerByte (s : State) (c : Chip) (hdr : Byte) : Byte := s.receive c hdr [] 1 0

end Sys2Proof.Machine
end

