-- ==== Sys2Proof/Certificates/Slice0/Obligations.lean ====
section
/-! DEFINITION. The statements for the provers, from the spec's numbered rules. `s.completed res evs` is s after the completion
step of a command that left res in RES and recorded the events evs; `s.afterXfer e` is s after the transaction recorded as e.
Both are record updates of s, so an equation with them says of every other register that it is unchanged. `pollReady`,
`received` and `answerByte` are the chip oracle's answers in a state, free but for those that `answers` fixes (log entry 2). -/

open Sys2Proof Sys2Proof.Machine

/-! ### Encoding (30_encoding.md) -/

/-- Decoding the word of a well-formed command gives the command back, with every operand at every value (R71 to R74). -/
def Obligations.DecodeOfEncodeIsTheCommand : Prop :=
  ∀ i : Instr, i.wf = true → decode (encode i) = .ok i

/-- A word that decodes is the word of exactly that command, and the command is well-formed: no two legal words mean the same
command and no bit of a legal word is dropped (R72, R74, R75). -/
def Obligations.DecodedWordIsTheEncoding : Prop :=
  ∀ (w : Word) (i : Instr), decode w = .ok i → i.wf = true ∧ encode i = w

/-- A word is rejected exactly when a step of R74 fails: its opcode is in no row, or its row's mask and match reject it, or it
names a chip at or above NUM_CHIPS, a RID above 4, or (FGET, FSET) a FID at or above NF(rid). -/
def Obligations.DecoderRejectsExactlyTheIllegalWords : Prop :=
  ∀ w : Word, (∃ e, decode w = .error e) ↔
    ((∀ o : Opcode, o.code ≠ fieldOpc w) ∨
      ∃ o : Opcode, o.code = fieldOpc w ∧
        (w &&& o.mask ≠ o.pattern ∨
          (o ∉ [Opcode.nop, .busInit, .fdec, .fenc, .freqEnc, .drateEnc, .devEnc, .bwEnc, .chspEnc] ∧
            2 ≤ (fieldChip w).toNat) ∨
          (o ∈ [Opcode.fdec, .fenc, .decomp, .fget, .fset] ∧ 4 < (fieldRid w).toNat) ∨
          (o ∈ [Opcode.fget, .fset] ∧ ∃ r : PackedReg, r.rid = fieldRid w ∧ r.nf ≤ (fieldFid w).toNat)))

/-- At most one row of the opcode map matches any word (R73). -/
def Obligations.AtMostOneRowMatches : Prop :=
  ∀ (w : Word) (o o' : Opcode), w &&& o.mask = o.pattern → w &&& o'.mask = o'.pattern → o = o'

/-- Words written out from the formats of R71 decode to the commands the spec's examples give them; each RID, 0 to 4, is its
register of R130; and of each register the last FID, NF - 1, is legal and FID = NF is not (R72 to R74). -/
def Obligations.ExampleWordsDecode : Prop :=
  decode 0x00000000 = .ok .nop ∧ decode 0x01000000 = .ok .busInit ∧
  decode 0x100D0010 = .ok (.wrReg 0 0x0D 0x10) ∧ decode 0x134D0200 = .ok (.rdBurst 1 0x0D 3) ∧
  decode 0x20000045 = .ok (.fdec .pktctrl0 0x45) ∧ decode 0x24010004 = .ok (.fset 0 .pktctrl1 0 0x04) ∧
  decode 0x31400000 = .ok (.setFreq 1) ∧ decode 0x39000000 = .ok (.setChsp 0) ∧
  decode 0x11800000 = .error .chipOutOfRange ∧ decode 0x120D4000 = .error .nonzeroReserved ∧
  decode 0x22000000 = .ok (.decomp 0 .pktctrl0) ∧ decode 0x22010000 = .ok (.decomp 0 .pktctrl1) ∧
  decode 0x22020000 = .ok (.decomp 0 .mdmcfg1) ∧ decode 0x22030000 = .ok (.decomp 0 .mdmcfg2) ∧
  decode 0x22040000 = .ok (.decomp 0 .mdmcfg4) ∧ decode 0x22050000 = .error .ridOutOfRange ∧
  decode 0x23000300 = .ok (.fget 0 .pktctrl0 3) ∧ decode 0x23000400 = .error .fidOutOfRange ∧
  decode 0x23010300 = .ok (.fget 0 .pktctrl1 3) ∧ decode 0x23010400 = .error .fidOutOfRange ∧
  decode 0x23020200 = .ok (.fget 0 .mdmcfg1 2) ∧ decode 0x23020300 = .error .fidOutOfRange ∧
  decode 0x23030300 = .ok (.fget 0 .mdmcfg2 3) ∧ decode 0x23030400 = .error .fidOutOfRange ∧
  decode 0x23040200 = .ok (.fget 0 .mdmcfg4 2) ∧ decode 0x23040300 = .error .fidOutOfRange

/-! ### The engine (10_state.md R21, R37; 60_exceptions.md R228) -/

/-- With a command accepted and the engine to move, a step is `exec` of the decoded command, and nothing else. That the engine
moves when nothing comes from outside (`inputs` empty) and while the host polls (`wait`), and that it then runs the whole command
in the one step, is the model's choice: log entries 1 and 3, DESIGN CHOICE (60_exceptions.md R228 allows one step). -/
def Obligations.StepRunsTheDecodedCommand : Prop :=
  ∀ (s : State) (i : Instr), s.eng = .accepted → decode s.cmd = .ok i →
    (s.inputs = [] → step s = exec i s) ∧
    (∀ rest, s.inputs = .wait :: rest → s.status.busy = true → step s = exec i s)

/-- With nothing coming from outside, an accepted word that is no legal command executes nothing: ILLEGAL <- 1, CAUSE <- 3,
DONE <- 1, BUSY <- 0, and no register, buffer byte or bus transaction changes (60_exceptions.md R223). -/
def Obligations.IllegalWordOnlyReports : Prop :=
  ∀ (s : State) (e : DecodeError), s.inputs = [] → s.eng = .accepted → decode s.cmd = .error e →
    step s = .next { s with
      status := { s.status with illegal := true, cause := 3, done := true, busy := false }
      eng := .idle
      sel := none }

/-- A bus command with INIT = 0 issues no transaction and changes only STATUS: NOINIT <- 1, CAUSE <- 5, DONE <- 1, BUSY <- 0
(40_bus.md R104, 60_exceptions.md R225). -/
def Obligations.UninitializedBusCommandOnlyReports : Prop :=
  ∀ (i : Instr) (s : State), i.usesBus = true → s.status.init = false →
    exec i s = .next { s with
      status := { s.status with noinit := true, cause := 5, done := true, busy := false }
      eng := .idle
      sel := none }

/-- Running a command as one step and running it phase by phase end in the same state, after at most eight phases: one to
decode, two for each of at most three transactions, one to complete. The phases are the model's (log entry 3); that a whole
command may be one step is 60_exceptions.md R228. -/
def Obligations.PhasesRefineTheCommand : Prop :=
  ∀ s : State, s.eng = .accepted → s.sel = none → s.runEngine = .next (State.phase^[8] s)

/-- Until the phase that completes a command, no phase of it changes STATUS, CMD, OPA, the lines or anything of the host's
side (60_exceptions.md R228). RES and BUF may change before it, and read as unspecified values meanwhile. The phases are the
model's (log entry 3). -/
def Obligations.StatusIsUnchangedUntilCompletion : Prop :=
  ∀ s : State, s.phase.eng ≠ .idle →
    s.phase.status = s.status ∧ s.phase.cmd = s.cmd ∧ s.phase.opaLo = s.opaLo ∧ s.phase.opaHi = s.opaHi ∧
      s.phase.lines = s.lines ∧ s.phase.rdata = s.rdata ∧ s.phase.inputs = s.inputs

/-! ### The host interface (10_state.md R20 to R36) -/

/-- A host write of CMD: with BUSY = 0 it is accepted in one step (CMD, BUSY <- 1, DONE <- 0, the engine starts); with BUSY = 1
it is dropped and OVR is set (R21, R30). -/
def Obligations.WritingCmdIssuesOrOverruns : Prop :=
  ∀ (s : State) (w : Word) (rest : List Input), s.inputs = .write 0x00 4 w :: rest →
    (s.status.busy = false →
      step s = .next { s with
        inputs := rest
        cmd := w
        status := { s.status with busy := true, done := false }
        eng := .accepted }) ∧
    (s.status.busy = true → step s = .next { s with inputs := rest, status := { s.status with ovr := true } })

/-- A host write to CMD, OPA_LO, OPA_HI or any BUF word while BUSY = 1 is dropped and sets OVR at once; CAUSE and everything
else stays (10_state.md R30, 60_exceptions.md R224). -/
def Obligations.BusyWritesAreDroppedAndFlagged : Prop :=
  ∀ (s : State) (o : Nat) (v : Word) (rest : List Input), s.inputs = .write o 4 v :: rest → s.status.busy = true →
    (o = 0x00 ∨ o = 0x08 ∨ o = 0x0C ∨ ∃ k < 16, o = 0x40 + 4 * k) →
      step s = .next { s with inputs := rest, status := { s.status with ovr := true } }

/-- A host write to STATUS clears each W1C bit (1 to 6) whose written bit is 1 and leaves every other bit, whether BUSY is 0 or
1 (10_state.md R24). -/
def Obligations.StatusWriteClearsOnlyWrittenOnes : Prop :=
  ∀ (s : State) (v : Word) (rest : List Input), s.inputs = .write 0x04 4 v :: rest →
    ∃ t, step s = .next t ∧
      (∀ k : Fin 32, t.status.word.getLsbD k =
        (s.status.word.getLsbD k && !(decide (1 ≤ k.val ∧ k.val ≤ 6) && v.getLsbD k))) ∧
      t = { s with inputs := rest, status := t.status }

/-- A host write to OPA_LO or OPA_HI with BUSY = 0 replaces that half and nothing else; OPA is OPA_HI in bits 63:32 and OPA_LO
in bits 31:0 (10_state.md R22). -/
def Obligations.OpaHalvesAreWrittenSeparately : Prop :=
  (∀ (s : State) (v : Word) (rest : List Input), s.inputs = .write 0x08 4 v :: rest → s.status.busy = false →
    step s = .next { s with inputs := rest, opaLo := v }) ∧
  (∀ (s : State) (v : Word) (rest : List Input), s.inputs = .write 0x0C 4 v :: rest → s.status.busy = false →
    step s = .next { s with inputs := rest, opaHi := v }) ∧
  (∀ s : State, s.opa = s.opaHi.toNat * 2 ^ 32 + s.opaLo.toNat)

/-- BUF word k holds BUF[4k+j] in bits 8j+7 to 8j: a host write with BUSY = 0 replaces exactly those four bytes, and a read
then returns the word (10_state.md R35). BUF in its canonical form (the invariant) is a premise. -/
def Obligations.BufWordHoldsItsFourBytes : Prop :=
  ∀ (s : State) (k : Nat) (v : Word) (rest : List Input), k < 16 → s.buf.wf = true → s.status.busy = false →
    s.inputs = .write (0x40 + 4 * k) 4 v :: .read (0x40 + 4 * k) 4 :: rest →
      ∃ t, step s = .next t ∧
        (∀ j < 4, t.buf.read (4 * k + j) = v.extractLsb' (8 * j) 8) ∧
        (∀ a, a < 4 * k ∨ 4 * k + 4 ≤ a → t.buf.read a = s.buf.read a) ∧
        t = { s with buf := t.buf, inputs := .read (0x40 + 4 * k) 4 :: rest } ∧
        ∃ u, step t = .next u ∧ u.rdata = some v

/-- What a host read returns, register by register, and that it changes nothing of the machine (10_state.md R20 to R24, R35;
20_memory.md R59). RES and BUF are read with BUSY = 0. CMD, STATUS, OPA_LO and OPA_HI are read with either: that they read as
themselves also with BUSY = 1 is the model's inference (log entry 12, DEDUCED). -/
def Obligations.HostReadsReturnTheRegisterMap : Prop :=
  ∀ (s : State) (o : Nat) (rest : List Input), s.inputs = .read o 4 :: rest →
    ∀ v : Word,
      (o = 0x00 ∧ v = s.cmd) ∨ (o = 0x04 ∧ v = s.status.word) ∨ (o = 0x08 ∧ v = s.opaLo) ∨ (o = 0x0C ∧ v = s.opaHi) ∨
      (o = 0x10 ∧ s.status.busy = false ∧ v = s.res) ∨
      (s.status.busy = false ∧ ∃ k < 16, o = 0x40 + 4 * k ∧
        v = s.buf.read (4 * k + 3) ++ s.buf.read (4 * k + 2) ++ s.buf.read (4 * k + 1) ++ s.buf.read (4 * k)) →
      ∃ t, step s = .next t ∧ t.rdata = some v ∧
        t = { s with inputs := rest, rdata := t.rdata, readDraws := t.readDraws }

/-- A read of RES or BUF while BUSY = 1 completes with some value and changes nothing of the machine (10_state.md R23, R35).
The value is free: the statement holds of every one. -/
def Obligations.BusyReadsChangeNothing : Prop :=
  ∀ (s : State) (o : Nat) (rest : List Input), s.inputs = .read o 4 :: rest → s.status.busy = true →
    (o = 0x10 ∨ ∃ k < 16, o = 0x40 + 4 * k) →
      ∃ t v, step s = .next t ∧ t.rdata = some v ∧
        t = { s with inputs := rest, rdata := t.rdata, readDraws := t.readDraws }

/-- Reserved host offsets 0x14 to 0x3C read as 0 and ignore writes, with no side effect, whatever BUSY is (10_state.md R36). -/
def Obligations.ReservedOffsetsReadZeroIgnoreWrites : Prop :=
  ∀ (s : State) (o : Nat) (rest : List Input), 0x14 ≤ o → o ≤ 0x3C → o % 4 = 0 →
    (s.inputs = .read o 4 :: rest → ∃ t, step s = .next t ∧ t.rdata = some 0x00000000 ∧
      t = { s with inputs := rest, rdata := t.rdata, readDraws := t.readDraws }) ∧
    (∀ v, s.inputs = .write o 4 v :: rest → step s = .next { s with inputs := rest })

/-- A host access that is not 32 bits wide at a multiple of 4 below 0x80 has no step; every other access has one (20_memory.md
R51). -/
def Obligations.OnlyDefinedHostAccessesHaveAStep : Prop :=
  ∀ (s : State) (o n : Nat) (rest : List Input) (x : Input),
    s.inputs = x :: rest → (x = .read o n ∨ ∃ v, x = .write o n v) →
      ((∃ t, step s = .next t) ↔ n = 4 ∧ o % 4 = 0 ∧ o < 0x80) ∧
      (¬ (n = 4 ∧ o % 4 = 0 ∧ o < 0x80) → step s = .refused (.undefinedHostAccess o n))

/-- The only refusal of the machine is that of an undefined host access: no command, no event and no data stops it
(20_memory.md R66, 60_exceptions.md R226). -/
def Obligations.StepRefusesOnlyUndefinedHostAccesses : Prop :=
  ∀ s : State, (∃ t, step s = .next t) ∨
    ∃ o n rest, step s = .refused (.undefinedHostAccess o n) ∧ ¬ (n = 4 ∧ o % 4 = 0 ∧ o < 0x80) ∧
      (s.inputs = .read o n :: rest ∨ ∃ v, s.inputs = .write o n v :: rest)

/-! ### Reset (70_reset_and_hazards.md) -/

/-- After reset every piece of RCE state has the value of R250's table. The parameters are at their defaults: REGADDR is the
table of 20_memory.md R56 and READY_BINDING the default of 00_scope.md R6; that State.reset takes the defaults is the model's
choice (log entry 10). -/
def Obligations.ResetGivesEveryStateItsValue : Prop :=
  State.reset.cmd = 0x00000000 ∧ State.reset.status.word = 0x00000000 ∧ State.reset.opaLo = 0x00000000 ∧
  State.reset.opaHi = 0x00000000 ∧ State.reset.res = 0x00000000 ∧ (∀ a, State.reset.buf.read a = 0x00) ∧
  State.reset.eng = .idle ∧ State.reset.sel = none ∧ (∀ c, State.reset.csAsserted c = false) ∧
  State.reset.lines = .unconfigured ∧ State.reset.history = [] ∧
  State.reset.params.regaddr =
    { aPktctrl1 := 0x07, aPktctrl0 := 0x08, aFreq2 := 0x0D, aFreq1 := 0x0E, aFreq0 := 0x0F, aMdmcfg4 := 0x10
      aMdmcfg3 := 0x11, aMdmcfg2 := 0x12, aMdmcfg1 := 0x13, aMdmcfg0 := 0x14, aDeviatn := 0x15 } ∧
  State.reset.params.readyBinding = ⟨.dataIn, false⟩

/-- A reset, also one asserted inside a command or a transaction, gives the state of R250 at once, with no completion step and
no record of the cut command (R251). The parameters stay (log entry 10), and what is outside the RCE goes on (log entry 8). -/
def Obligations.ResetCutsTheCommandOff : Prop :=
  ∀ (s : State) (rest : List Input), s.inputs = .reset :: rest →
    step s = .next { State.reset with
      params := s.params
      inputs := rest, answers := s.answers, rdata := s.rdata, chipDraws := s.chipDraws, readDraws := s.readDraws }

/-! ### STATUS (10_state.md R24 to R34, 60_exceptions.md R220, R227, R228) -/

/-- The layout of the STATUS word, with bits 31:12 zero (R24, R34). -/
def Obligations.StatusWordLayout : Prop :=
  ∀ st : Status,
    st.word.getLsbD 0 = st.busy ∧ st.word.getLsbD 1 = st.done ∧ st.word.getLsbD 2 = st.timeout ∧
    st.word.getLsbD 3 = st.clamp ∧ st.word.getLsbD 4 = st.illegal ∧ st.word.getLsbD 5 = st.ovr ∧
    st.word.getLsbD 6 = st.noinit ∧ st.word.getLsbD 7 = st.init ∧
    st.word.extractLsb' 8 4 = st.cause ∧ st.word.extractLsb' 12 20 = 0

/-- The completion step: the sticky bit of every recorded event is set and no other changes, CAUSE takes the code of the event
of highest priority (IllegalCommand 3 > BusNotInitialized 5 > TransportTimeout 1 > InvalidParameter 2) or 0, DONE <- 1,
BUSY <- 0, ENG <- IDLE, SEL <- NONE; OVR, INIT and every other register stay (60_exceptions.md R227, R228). -/
def Obligations.CompletionStepReports : Prop :=
  ∀ (s : State) (evs : List Event), s.complete evs = { s with
    status := { s.status with
      timeout := s.status.timeout || decide (Event.transportTimeout ∈ evs)
      clamp := s.status.clamp || decide (Event.invalidParameter ∈ evs)
      illegal := s.status.illegal || decide (Event.illegalCommand ∈ evs)
      noinit := s.status.noinit || decide (Event.busNotInitialized ∈ evs)
      cause :=
        if Event.illegalCommand ∈ evs then 3
        else if Event.busNotInitialized ∈ evs then 5
        else if Event.transportTimeout ∈ evs then 1
        else if Event.invalidParameter ∈ evs then 2
        else 0
      done := true
      busy := false }
    eng := .idle
    sel := none }

/-- Only a host write of 1 or a reset clears a sticky bit (10_state.md R27 to R31). -/
def Obligations.StickyBitsAreClearedOnlyFromOutside : Prop :=
  ∀ s t : State, step s = .next t →
    (∃ rest, s.inputs = .reset :: rest) ∨
    ((s.status.timeout = true → t.status.timeout = true ∨ ∃ v rest, s.inputs = .write 0x04 4 v :: rest ∧ v.getLsbD 2 = true) ∧
     (s.status.clamp = true → t.status.clamp = true ∨ ∃ v rest, s.inputs = .write 0x04 4 v :: rest ∧ v.getLsbD 3 = true) ∧
     (s.status.illegal = true → t.status.illegal = true ∨ ∃ v rest, s.inputs = .write 0x04 4 v :: rest ∧ v.getLsbD 4 = true) ∧
     (s.status.ovr = true → t.status.ovr = true ∨ ∃ v rest, s.inputs = .write 0x04 4 v :: rest ∧ v.getLsbD 5 = true) ∧
     (s.status.noinit = true → t.status.noinit = true ∨ ∃ v rest, s.inputs = .write 0x04 4 v :: rest ∧ v.getLsbD 6 = true))

/-- INIT becomes 1 only when a BUS_INIT command completes, and only reset returns it to 0 (10_state.md R32). -/
def Obligations.InitIsSetByBusInitAndClearedByReset : Prop :=
  ∀ s t : State, step s = .next t →
    (s.status.init = false → t.status.init = true →
      s.eng = .accepted ∧ decode s.cmd = .ok .busInit ∧ t.eng = .idle ∧ t.status.done = true) ∧
    (s.status.init = true → t.status.init = false → ∃ rest, s.inputs = .reset :: rest)

/-- Who writes CMD, OPA, OVR and RES: a step other than a reset changes CMD only by an accepted write of CMD, OPA only by a host
write of that half with BUSY = 0, and sets OVR only by a host write of CMD, OPA_LO, OPA_HI or a BUF word with BUSY = 1, the
engine writes none of them; no host access changes RES, and a host write of RES changes nothing, whatever BUSY is; and no step
changes the parameters (10_state.md R21, R22, R23, R30; 20_memory.md R64; 00_scope.md R6). -/
def Obligations.HostWritesCmdAndOpaEngineWritesRes : Prop :=
  ∀ s t : State, step s = .next t → (∀ rest, s.inputs ≠ .reset :: rest) →
    (t.cmd = s.cmd ∨ ∃ v rest, s.inputs = .write 0x00 4 v :: rest ∧ s.status.busy = false ∧ t.cmd = v) ∧
    (t.opaLo = s.opaLo ∨ ∃ v rest, s.inputs = .write 0x08 4 v :: rest ∧ s.status.busy = false ∧ t.opaLo = v) ∧
    (t.opaHi = s.opaHi ∨ ∃ v rest, s.inputs = .write 0x0C 4 v :: rest ∧ s.status.busy = false ∧ t.opaHi = v) ∧
    (t.status.ovr = true → s.status.ovr = true ∨ ∃ o v rest, s.inputs = .write o 4 v :: rest ∧ s.status.busy = true ∧
      (o = 0x00 ∨ o = 0x08 ∨ o = 0x0C ∨ ∃ k < 16, o = 0x40 + 4 * k)) ∧
    ((∃ o n rest, s.inputs = .read o n :: rest ∨ ∃ v, s.inputs = .write o n v :: rest) → t.res = s.res) ∧
    (∀ v rest, s.inputs = .write 0x10 4 v :: rest → t = { s with inputs := rest }) ∧
    t.params = s.params

/-! ### Invariants -/

/-- The reset state meets the invariant. -/
def Obligations.ResetMeetsTheInvariant : Prop := State.reset.Inv

/-- Every step keeps the invariant: BUF's canonical form (a model convention), ENG = EXEC exactly while BUSY = 1 (R37), never
BUSY and DONE both (R26), a selected chip is the current transaction's (R37, R62), the lines follow INIT (R107), CAUSE is a
code a command can leave (R33, R220), at most three transactions of at most 64 data bytes are left (R259), none without INIT
(R104), and the history holds only such transactions (R114). -/
def Obligations.EveryStepKeepsTheInvariant : Prop :=
  ∀ s t : State, s.Inv → step s = .next t → t.Inv

/-! ### The bus (40_bus.md) -/

/-- The header byte of each transaction shape (R101). -/
def Obligations.HeaderBytesOfTheSixShapes : Prop :=
  ∀ a : Addr,
    hdrWrite a = 0x00#8 ||| a.zeroExtend 8 ∧ hdrRead a = 0x80#8 ||| a.zeroExtend 8 ∧
    hdrBurstWrite a = 0x40#8 ||| a.zeroExtend 8 ∧ hdrBurstRead a = 0xC0#8 ||| a.zeroExtend 8 ∧
    hdrStrobe a = 0x00#8 ||| a.zeroExtend 8 ∧ hdrStatus a = 0xC0#8 ||| a.zeroExtend 8

/-- BusXfer: with the chip ready it receives nin bytes and records the transaction; on Timeout it records it with no byte.
Either way the chip is deselected, and nothing but the history and the chip's answer changes (R100, R102, R114). -/
def Obligations.BusXferAnswersAndRecords : Prop :=
  ∀ (s : State) (c : Chip) (hdr : Byte) (out : List Byte) (nin : Nat),
    (s.pollReady c hdr out nin = true → ∃ bs : List Byte, bs.length = nin ∧ s.busXfer c hdr out nin = (.ok bs,
      { s with
        sel := none
        history := s.history ++ [⟨c, hdr, out, bs, .ok⟩]
        answers := s.answers.tail
        chipDraws := s.chipDraws + 1 })) ∧
    (s.pollReady c hdr out nin = false → s.busXfer c hdr out nin = (.timeout,
      { s with
        sel := none
        history := s.history ++ [⟨c, hdr, [], [], .timeout⟩]
        answers := s.answers.tail
        chipDraws := s.chipDraws + 1 }))

/-- A command adds to the bus history at most three transactions (70_reset_and_hazards.md R259), all with the chip it names
(60_exceptions.md R237), none if it does not use the bus (20_memory.md R58), and none after a timed-out one (40_bus.md R105). -/
def Obligations.CommandsAddOnlyTheirOwnTransactions : Prop :=
  ∀ (i : Instr) (s t : State), exec i s = .next t →
    ∃ es : List BusEvent, t.history = s.history ++ es ∧ es.length ≤ 3 ∧ (∀ e ∈ es, i.chip = some e.chip) ∧
      (i.usesBus = false → es = []) ∧ (∀ e ∈ es.dropLast, e.outcome = .ok)

/-- The frame of every command: CMD, OPA, OVR, the parameters and the host's side stay; it ends idle and deselected with
DONE = 1 and BUSY = 0; INIT and the lines change only by BUS_INIT, RES not by NOP, BUS_INIT, WR_REG, WR_BURST or STROBE, and
BUF only by RD_BURST (10_state.md R22, R23, R35; 40_bus.md R106 to R113). -/
def Obligations.CommandFrame : Prop :=
  ∀ (i : Instr) (s t : State), exec i s = .next t →
    t.cmd = s.cmd ∧ t.opaLo = s.opaLo ∧ t.opaHi = s.opaHi ∧ t.status.ovr = s.status.ovr ∧ t.inputs = s.inputs ∧
    t.rdata = s.rdata ∧ t.readDraws = s.readDraws ∧ t.params = s.params ∧
    t.eng = .idle ∧ t.sel = none ∧ t.status.done = true ∧ t.status.busy = false ∧
    (i ≠ .busInit → t.status.init = s.status.init ∧ t.lines = s.lines) ∧
    ((i = .nop ∨ i = .busInit ∨ (∃ c a d, i = .wrReg c a d) ∨ (∃ c a n, i = .wrBurst c a n) ∨ ∃ c a, i = .strobe c a) →
      t.res = s.res) ∧
    ((∀ c a n, i ≠ .rdBurst c a n) → ∀ k, t.buf.read k = s.buf.read k)

/-! ### Control and bus commands (40_bus.md R106 to R113) -/

/-- NOP: DONE <- 1, CAUSE <- 0, and nothing else; it works with INIT = 0 (R106). -/
def Obligations.NopOnlyCompletes : Prop :=
  ∀ s : State, exec .nop s = .next (s.completed s.res [])

/-- BUS_INIT: the first time it configures the lines and sets INIT; with INIT = 1 it does nothing but complete, and no line
changes (R107). -/
def Obligations.BusInitConfiguresOnce : Prop :=
  ∀ s : State,
    (s.status.init = false → exec .busInit s = .next
      { s.completed s.res [] with
        status := { s.status.complete [] with init := true }
        lines := .idle }) ∧
    (s.status.init = true → exec .busInit s = .next (s.completed s.res []))

/-- WR_REG sends header 0x00 OR a and the data byte, STROBE the header alone; RES is unchanged; on Timeout no byte is sent and
TIMEOUT is reported (R108, R112). -/
def Obligations.WriteAndStrobeResults : Prop :=
  ∀ (c : Chip) (a : Addr) (s : State), s.status.init = true →
    (∀ d : Byte,
      (s.pollReady c (hdrWrite a) [d] 0 = true → exec (.wrReg c a d) s =
        .next ((s.afterXfer ⟨c, hdrWrite a, [d], [], .ok⟩).completed s.res [])) ∧
      (s.pollReady c (hdrWrite a) [d] 0 = false → exec (.wrReg c a d) s =
        .next ((s.afterXfer ⟨c, hdrWrite a, [], [], .timeout⟩).completed s.res [.transportTimeout]))) ∧
    (s.pollReady c (hdrStrobe a) [] 0 = true → exec (.strobe c a) s =
      .next ((s.afterXfer ⟨c, hdrStrobe a, [], [], .ok⟩).completed s.res [])) ∧
    (s.pollReady c (hdrStrobe a) [] 0 = false → exec (.strobe c a) s =
      .next ((s.afterXfer ⟨c, hdrStrobe a, [], [], .timeout⟩).completed s.res [.transportTimeout]))

/-- RD_REG and RD_STATUS: RES <- the byte the chip answers, zero-extended; on Timeout RES <- 0 (R109, R113). -/
def Obligations.ReadRegAndStatusResults : Prop :=
  ∀ (c : Chip) (a : Addr) (s : State), s.status.init = true →
    (s.pollReady c (hdrRead a) [] 1 = true → exec (.rdReg c a) s =
      .next ((s.afterXfer ⟨c, hdrRead a, [], [s.answerByte c (hdrRead a)], .ok⟩).completed
        ((s.answerByte c (hdrRead a)).zeroExtend 32) [])) ∧
    (s.pollReady c (hdrRead a) [] 1 = false → exec (.rdReg c a) s =
      .next ((s.afterXfer ⟨c, hdrRead a, [], [], .timeout⟩).completed 0x00000000 [.transportTimeout])) ∧
    (s.pollReady c (hdrStatus a) [] 1 = true → exec (.rdStatus c a) s =
      .next ((s.afterXfer ⟨c, hdrStatus a, [], [s.answerByte c (hdrStatus a)], .ok⟩).completed
        ((s.answerByte c (hdrStatus a)).zeroExtend 32) [])) ∧
    (s.pollReady c (hdrStatus a) [] 1 = false → exec (.rdStatus c a) s =
      .next ((s.afterXfer ⟨c, hdrStatus a, [], [], .timeout⟩).completed 0x00000000 [.transportTimeout]))

/-- WR_BURST sends header 0x40 OR a and BUF[0] to BUF[n-1]; RES and BUF are unchanged (R110). -/
def Obligations.WriteBurstSendsTheBuffer : Prop :=
  ∀ (c : Chip) (a : Addr) (n : Nat) (s : State), 1 ≤ n → n ≤ 64 → s.status.init = true →
    ∀ out : List Byte, out.length = n → (∀ k < n, out[k]? = some (s.buf.read k)) →
      (s.pollReady c (hdrBurstWrite a) out 0 = true → exec (.wrBurst c a n) s =
        .next ((s.afterXfer ⟨c, hdrBurstWrite a, out, [], .ok⟩).completed s.res [])) ∧
      (s.pollReady c (hdrBurstWrite a) out 0 = false → exec (.wrBurst c a n) s =
        .next ((s.afterXfer ⟨c, hdrBurstWrite a, [], [], .timeout⟩).completed s.res [.transportTimeout]))

/-- RD_BURST: BUF[0] to BUF[n-1] take the bytes in the order received, BUF[n] to BUF[63] stay, RES <- n; on Timeout RES <- 0
and BUF stays (R111). BUF in its canonical form (the invariant) is a premise. -/
def Obligations.ReadBurstFillsTheBuffer : Prop :=
  ∀ (c : Chip) (a : Addr) (n : Nat) (s : State), 1 ≤ n → n ≤ 64 → s.status.init = true → s.buf.wf = true →
    (s.pollReady c (hdrBurstRead a) [] n = true →
      ∃ (bs : List Byte) (m : Memory), bs = s.received c (hdrBurstRead a) [] n ∧ bs.length = n ∧ m.wf = true ∧
        (∀ k < n, some (m.read k) = bs[k]?) ∧ (∀ k, n ≤ k → m.read k = s.buf.read k) ∧
        exec (.rdBurst c a n) s = .next
          { (s.afterXfer ⟨c, hdrBurstRead a, [], bs, .ok⟩).completed (BitVec.ofNat 32 n) [] with buf := m }) ∧
    (s.pollReady c (hdrBurstRead a) [] n = false → exec (.rdBurst c a n) s =
      .next ((s.afterXfer ⟨c, hdrBurstRead a, [], [], .timeout⟩).completed 0x00000000 [.transportTimeout]))

/-! ### Bitfield commands (41_bitfield.md) -/

/-- FDEC: RES <- the fields of the byte, field k in lane k, whatever INIT is; every byte decomposes and nothing clamps (R137).
The fields are the slots of R130, given here register by register. -/
def Obligations.FdecDecomposesTheByte : Prop :=
  ∀ (d : Byte) (s : State),
    exec (.fdec .pktctrl0 d) s = .next (s.completed (d.toNat / 64 + 256 * (d.toNat / 16 % 4) + 65536 * (d.toNat / 4 % 4)
      + 16777216 * (d.toNat % 4) : Nat) []) ∧
    exec (.fdec .pktctrl1 d) s = .next (s.completed (d.toNat / 32 + 256 * (d.toNat / 8 % 4) + 65536 * (d.toNat / 4 % 2)
      + 16777216 * (d.toNat % 4) : Nat) []) ∧
    exec (.fdec .mdmcfg1 d) s = .next (s.completed (d.toNat / 128 + 256 * (d.toNat / 16 % 8) + 65536 * (d.toNat % 16)
      : Nat) []) ∧
    exec (.fdec .mdmcfg2 d) s = .next (s.completed (d.toNat / 128 + 256 * (d.toNat / 16 % 8) + 65536 * (d.toNat / 8 % 2)
      + 16777216 * (d.toNat % 8) : Nat) []) ∧
    exec (.fdec .mdmcfg4 d) s = .next (s.completed (d.toNat / 64 + 256 * (d.toNat / 16 % 4) + 65536 * (d.toNat % 16)
      : Nat) [])

/-- FENC: RES <- the sum over the fields of min(lane k, max_k) times weight_k, whatever INIT is; InvalidParameter is flagged
once exactly if some lane of a field is above its max, and the lanes at or above NF(rid) are ignored (R138, R134, R135). -/
def Obligations.FencRecomposesTheClampedLanes : Prop :=
  ∀ (r : PackedReg) (s : State),
    ∃ (v : Byte) (evs : List Event), exec (.fenc r) s = .next (s.completed (v.zeroExtend 32) evs) ∧
      v.toNat = ((List.range r.nf).map fun k =>
        min (s.opaLo.extractLsb' (8 * k) 8).toNat (fieldMax r k) * (((slots r)[k]?).map Slot.weight).getD 0).sum ∧
      evs = if ∃ k < r.nf, fieldMax r k < (s.opaLo.extractLsb' (8 * k) 8).toNat then [.invalidParameter] else []

/-- Each packed register is the RID, the field count and the REGADDR entry of R130, and its fields are as wide as there. DECOMP
and FGET read the live register at that entry once: RES <- its fields in lanes, or one field; on Timeout RES <- 0 (R139, R140). -/
def Obligations.DecompAndFgetReadTheLiveRegister : Prop :=
  (∀ t : RegAddr,
    (PackedReg.pktctrl0.rid = 0 ∧ PackedReg.pktctrl0.nf = 4 ∧ regAddr t .pktctrl0 = t.aPktctrl0 ∧
      (List.range 4).map (fieldMax .pktctrl0) = [3, 3, 3, 3]) ∧
    (PackedReg.pktctrl1.rid = 1 ∧ PackedReg.pktctrl1.nf = 4 ∧ regAddr t .pktctrl1 = t.aPktctrl1 ∧
      (List.range 4).map (fieldMax .pktctrl1) = [7, 3, 1, 3]) ∧
    (PackedReg.mdmcfg1.rid = 2 ∧ PackedReg.mdmcfg1.nf = 3 ∧ regAddr t .mdmcfg1 = t.aMdmcfg1 ∧
      (List.range 3).map (fieldMax .mdmcfg1) = [1, 7, 15]) ∧
    (PackedReg.mdmcfg2.rid = 3 ∧ PackedReg.mdmcfg2.nf = 4 ∧ regAddr t .mdmcfg2 = t.aMdmcfg2 ∧
      (List.range 4).map (fieldMax .mdmcfg2) = [1, 7, 1, 7]) ∧
    (PackedReg.mdmcfg4.rid = 4 ∧ PackedReg.mdmcfg4.nf = 3 ∧ regAddr t .mdmcfg4 = t.aMdmcfg4 ∧
      (List.range 3).map (fieldMax .mdmcfg4) = [3, 3, 15])) ∧
  (∀ (c : Chip) (r : PackedReg) (s : State), s.status.init = true →
      let h := hdrRead (regAddr s.params.regaddr r)
      (s.pollReady c h [] 1 = true →
        exec (.decomp c r) s = .next ((s.afterXfer ⟨c, h, [], [s.answerByte c h], .ok⟩).completed
          (resLanes (peel (s.answerByte c h) r)) []) ∧
        ∀ (fid x : Nat), (peel (s.answerByte c h) r)[fid]? = some x →
          exec (.fget c r fid) s = .next ((s.afterXfer ⟨c, h, [], [s.answerByte c h], .ok⟩).completed
            (BitVec.ofNat 32 x) [])) ∧
      (s.pollReady c h [] 1 = false →
        exec (.decomp c r) s =
          .next ((s.afterXfer ⟨c, h, [], [], .timeout⟩).completed 0x00000000 [.transportTimeout]) ∧
        ∀ fid : Nat, exec (.fget c r fid) s =
          .next ((s.afterXfer ⟨c, h, [], [], .timeout⟩).completed 0x00000000 [.transportTimeout])))

/-- FSET: the value is clamped, the live register read, its field replaced and the byte written back; a read that times out
gives RES = 0 and no write; RES is the byte to be written also when the write times out (R141). -/
def Obligations.FsetReplacesOneField : Prop :=
  ∀ (c : Chip) (r : PackedReg) (fid : Nat) (val : Byte) (s : State), fid < r.nf → s.status.init = true →
    let hr := hdrRead (regAddr s.params.regaddr r)
    let hw := hdrWrite (regAddr s.params.regaddr r)
    let v := min val.toNat (fieldMax r fid)
    let evs := if fieldMax r fid < val.toNat then [Event.invalidParameter] else []
    let b := s.answerByte c hr
    let new := recompose ((peel b r).set fid v) r
    let s1 := s.afterXfer ⟨c, hr, [], [b], .ok⟩
    (s.pollReady c hr [] 1 = false → exec (.fset c r fid val) s =
      .next ((s.afterXfer ⟨c, hr, [], [], .timeout⟩).completed 0x00000000 (evs ++ [.transportTimeout]))) ∧
    (s.pollReady c hr [] 1 = true → s1.pollReady c hw [new] 0 = false → exec (.fset c r fid val) s =
      .next ((s1.afterXfer ⟨c, hw, [], [], .timeout⟩).completed (new.zeroExtend 32) (evs ++ [.transportTimeout]))) ∧
    (s.pollReady c hr [] 1 = true → s1.pollReady c hw [new] 0 = true → exec (.fset c r fid val) s =
      .next ((s1.afterXfer ⟨c, hw, [new], [], .ok⟩).completed (new.zeroExtend 32) evs))

/-- Round trip: recompose of peel is the byte, and FENC with OPA_LO the RES of FDEC returns the byte, with no clamp (R142). -/
def Obligations.FencOfFdecReturnsTheByte : Prop :=
  (∀ (r : PackedReg) (v : Byte), recompose (peel v r) r = v) ∧
  ∀ (r : PackedReg) (v : Byte) (s t : State), exec (.fdec r v) s = .next t →
    exec (.fenc r) { t with opaLo := t.res } = .next ({ t with opaLo := t.res }.completed (v.zeroExtend 32) [])

/-- Sibling preservation: after an FSET that completes with no TransportTimeout on a chip that keeps the written byte, an FGET
of another field of the register returns what it was in the byte the FSET read, and an FGET of the field itself the clamped
value (R143). -/
def Obligations.FsetPreservesSiblings : Prop :=
  ∀ (c : Chip) (r : PackedReg) (fid g : Nat) (val : Byte) (s t u : State),
    fid < r.nf → g < r.nf → s.status.init = true →
    exec (.fset c r fid val) s = .next t → t.status.cause ≠ 1 → exec (.fget c r g) t = .next u → u.status.cause = 0 →
    (∃ b, t.res = b.zeroExtend 32 ∧ t.answerByte c (hdrRead (regAddr s.params.regaddr r)) = b) →
      (g ≠ fid → u.res.toNat = (peel (s.answerByte c (hdrRead (regAddr s.params.regaddr r))) r).getD g 0) ∧
      (g = fid → u.res.toNat = min val.toNat (fieldMax r fid))

/-! ### Arithmetic (00_scope.md R11, R12) -/

/-- rhu(num, den) is (2·num + den) div (2·den), with floor division, and that is floor(num/den + 1/2), for negative num too
(R11). -/
def Obligations.RhuIsFloorOfQuotientPlusHalf : Prop :=
  ∀ num den : Int, 0 < den →
    rhu num den = Int.fdiv (2 * num + den) (2 * den) ∧ rhu num den = ⌊(num : ℚ) / den + 1 / 2⌋

/-- clampq(q, lo, hi) is q inside the range and the nearest bound outside it, flagging exactly outside (R12). -/
def Obligations.ClampqSaturatesAndFlags : Prop :=
  ∀ q lo hi : Nat, lo ≤ hi →
    (q < lo → clampq q lo hi = (lo, true)) ∧ (lo ≤ q → q ≤ hi → clampq q lo hi = (q, false)) ∧
    (hi < q → clampq q lo hi = (hi, true))

/-! ### The encoders (42_frequency.md, 43_link.md) -/

/-- The frequency counts are those of R161's subtraction loops, each byte fits 8 bits, and the carry never fires (R161,
R162). -/
def Obligations.FreqCountsAreTheSubtractionLoops : Prop :=
  ∀ f : Nat, f ≤ Config.freqMax →
    freqCounts f = freqCountsByLoops f ∧
    (freqCounts f).1 ≤ 255 ∧ (freqCounts f).2.1 ≤ 255 ∧ (freqCounts f).2.2 ≤ 255 ∧
    f % Config.freqS2 % Config.freqS1 / Config.freqS0 ≤ 255

/-- The bytes of the word are the counts of the greedy reduction, largest step first: f2·S2 + f1·S1 + f0·S0 is at most f, and the
remainder dropped is below one low step; an input above FMAX gives 0xFFFFFF and the flag (R161, R163). -/
def Obligations.FreqWordTruncatesBelowOneStep : Prop :=
  (∀ f : Nat, f ≤ Config.freqMax →
    let k := freqword f
    let v := k.f2.toNat * 2600000000 + k.f1.toNat * 10156250 + k.f0.toNat * 39675
    k.clamped = false ∧ (k.f2.toNat, k.f1.toNat, k.f0.toNat) = freqCounts f ∧ v ≤ f ∧ f < v + 39675) ∧
  (∀ f : Nat, Config.freqMax < f → freqword f = ⟨0xFF, 0xFF, 0xFF, true⟩)

/-- The data rate's integer form is R182's loop over exact rationals, for every clamped input; E is at most 15, and M lies in 0
to 255 without the saturation. `drate`, which the commands run, encodes every input as its nearest bound of the clamp range, or as
itself inside it, and flags exactly outside (R180, R182, R222). -/
def Obligations.DrateIsTheHalvingLoop : Prop :=
  (∀ c : Nat, Config.drL ≤ c → c ≤ Config.drU →
    drateByLoop c = (drateExp c, (drateMant c (drateExp c) : Int)) ∧ drateExp c ≤ 15 ∧
    (drateMant c (drateExp c) : Int) =
      rhu (256 * ((c : Int) - Config.drL * 2 ^ drateExp c)) (Config.drL * 2 ^ drateExp c)) ∧
  (∀ q : Nat,
    ((drate q).e, ((drate q).m : Int)) = drateByLoop (min Config.drU (max Config.drL q)) ∧
    ((drate q).clamped = true ↔ q < Config.drL ∨ Config.drU < q))

/-- An encoded data rate with E < 15 decodes to within half of one mantissa count of the request (R195). -/
def Obligations.DrateDecodesWithinHalfACount : Prop :=
  ∀ c : Nat, Config.drL ≤ c → c ≤ Config.drU → (drate c).e < 15 →
    |drValue (drate c).e (drate c).m - c| ≤ Config.drL * 2 ^ (drate c).e / 512

/-- The deviation's step index is the first whose value reaches the clamped input, it is at most 63, and its byte is
(k div 8) << 4 OR (k mod 8). `dev`, which the commands run, gives every input the byte of its nearest bound of the clamp range, or
of itself inside it, and flags exactly outside (R185, R222). -/
def Obligations.DevIsTheFirstStepReached : Prop :=
  (∀ d : Nat, Config.dvL ≤ d → d ≤ Config.dvU →
    devIndex d ≤ 63 ∧ (d : ℚ) ≤ devValue (devIndex d) ∧ (∀ k < devIndex d, devValue k < d) ∧
    (devByte (devIndex d)).toNat = 16 * (devIndex d / 8) + devIndex d % 8) ∧
  (∀ q : Nat,
    (dev q).1 = devByte (devIndex (min Config.dvU (max Config.dvL q))) ∧
    ((dev q).2 = true ↔ q < Config.dvL ∨ Config.dvU < q))

/-- The bandwidth nibble is that of R188's two passes over exact rationals, for every input: s1 in bits 7:6, s2 in bits 5:4,
the rest 0 (R188). -/
def Obligations.BwIsTheTwoPasses : Prop :=
  ∀ f : Nat, (bwByPasses f).1 ≤ 3 ∧ (bwByPasses f).2 ≤ 3 ∧
    (bw f).toNat = 64 * (bwByPasses f).1 + 16 * (bwByPasses f).2

/-- The channel spacing's integer form is R191's loop over exact rationals, for every clamped input; E is at most 3, and M lies
in 0 to 255 without the saturation. `chsp`, which the commands run, encodes every input as its nearest bound of the clamp range,
or as itself inside it, and flags exactly outside (R180, R191, R222). -/
def Obligations.ChspIsTheHalvingLoop : Prop :=
  (∀ c : Nat, Config.csL ≤ c → c ≤ Config.csU →
    chspByLoop c = (chspExp c, (chspMant c (chspExp c) : Int)) ∧ chspExp c ≤ 3 ∧
    (chspMant c (chspExp c) : Int) =
      rhu (255 * ((c : Int) - Config.csL * 2 ^ chspExp c)) (((Config.csT : Int) - Config.csL) * 2 ^ chspExp c)) ∧
  (∀ q : Nat,
    ((chsp q).e, ((chsp q).m : Int)) = chspByLoop (min Config.csU (max Config.csL q)) ∧
    ((chsp q).clamped = true ↔ q < Config.csL ∨ Config.csU < q))

/-- The *_ENC commands: RES is the encoding of OPA in its layout, CLAMP is flagged exactly when OPA is outside the clamp range
(never for BW_ENC), no transaction is issued, and INIT does not matter (42_frequency.md R164, 43_link.md R183, R186, R189,
R192; 20_memory.md R53). -/
def Obligations.EncodersWriteOnlyRes : Prop :=
  ∀ s : State,
    exec .freqEnc s = .next (s.completed
      (0x00#8 ++ (freqword s.opa).f2 ++ (freqword s.opa).f1 ++ (freqword s.opa).f0)
      (if Config.freqMax < s.opa then [.invalidParameter] else [])) ∧
    exec .drateEnc s = .next (s.completed (256 * (drate s.opa).e + (drate s.opa).m : Nat)
      (if s.opa < Config.drL ∨ Config.drU < s.opa then [.invalidParameter] else [])) ∧
    exec .devEnc s = .next (s.completed ((dev s.opa).1.zeroExtend 32)
      (if s.opa < Config.dvL ∨ Config.dvU < s.opa then [.invalidParameter] else [])) ∧
    exec .bwEnc s = .next (s.completed ((bw s.opa).zeroExtend 32) []) ∧
    exec .chspEnc s = .next (s.completed (256 * (chsp s.opa).e + (chsp s.opa).m : Nat)
      (if s.opa < Config.csL ∨ Config.csU < s.opa then [.invalidParameter] else []))

/-! ### The SET_* commands -/

/-- SET_FREQ: RES is the whole word whatever the outcome; three single writes, high, mid, low; a Timeout ends it there
(42_frequency.md R165). -/
def Obligations.SetFreqWritesHighMidLow : Prop :=
  ∀ (c : Chip) (s : State), s.status.init = true →
    let k := freqword s.opa
    let res : Word := 0x00#8 ++ k.f2 ++ k.f1 ++ k.f0
    let evs := if Config.freqMax < s.opa then [Event.invalidParameter] else []
    let h2 := hdrWrite s.params.regaddr.aFreq2
    let h1 := hdrWrite s.params.regaddr.aFreq1
    let h0 := hdrWrite s.params.regaddr.aFreq0
    let s1 := s.afterXfer ⟨c, h2, [k.f2], [], .ok⟩
    let s2 := s1.afterXfer ⟨c, h1, [k.f1], [], .ok⟩
    (s.pollReady c h2 [k.f2] 0 = false → exec (.setFreq c) s =
      .next ((s.afterXfer ⟨c, h2, [], [], .timeout⟩).completed res (evs ++ [.transportTimeout]))) ∧
    (s.pollReady c h2 [k.f2] 0 = true → s1.pollReady c h1 [k.f1] 0 = false → exec (.setFreq c) s =
      .next ((s1.afterXfer ⟨c, h1, [], [], .timeout⟩).completed res (evs ++ [.transportTimeout]))) ∧
    (s.pollReady c h2 [k.f2] 0 = true → s1.pollReady c h1 [k.f1] 0 = true → s2.pollReady c h0 [k.f0] 0 = false →
      exec (.setFreq c) s =
        .next ((s2.afterXfer ⟨c, h0, [], [], .timeout⟩).completed res (evs ++ [.transportTimeout]))) ∧
    (s.pollReady c h2 [k.f2] 0 = true → s1.pollReady c h1 [k.f1] 0 = true → s2.pollReady c h0 [k.f0] 0 = true →
      exec (.setFreq c) s = .next ((s2.afterXfer ⟨c, h0, [k.f0], [], .ok⟩).completed res evs))

/-- SET_DRATE: RES at once; a live read of MDMCFG4, its high nibble kept with E in the low one, then M to MDMCFG3; a Timeout
ends it there, a timed-out read with no write (43_link.md R184). -/
def Obligations.SetDrateMergesTheExponent : Prop :=
  ∀ (c : Chip) (s : State), s.status.init = true →
    let k := drate s.opa
    let res : Word := (256 * k.e + k.m : Nat)
    let evs := if s.opa < Config.drL ∨ Config.drU < s.opa then [Event.invalidParameter] else []
    let hr := hdrRead s.params.regaddr.aMdmcfg4
    let h4 := hdrWrite s.params.regaddr.aMdmcfg4
    let h3 := hdrWrite s.params.regaddr.aMdmcfg3
    let b := s.answerByte c hr
    let new := (b &&& 0xF0#8) ||| BitVec.ofNat 8 k.e
    let m := BitVec.ofNat 8 k.m
    let s1 := s.afterXfer ⟨c, hr, [], [b], .ok⟩
    let s2 := s1.afterXfer ⟨c, h4, [new], [], .ok⟩
    (s.pollReady c hr [] 1 = false → exec (.setDrate c) s =
      .next ((s.afterXfer ⟨c, hr, [], [], .timeout⟩).completed res (evs ++ [.transportTimeout]))) ∧
    (s.pollReady c hr [] 1 = true → s1.pollReady c h4 [new] 0 = false → exec (.setDrate c) s =
      .next ((s1.afterXfer ⟨c, h4, [], [], .timeout⟩).completed res (evs ++ [.transportTimeout]))) ∧
    (s.pollReady c hr [] 1 = true → s1.pollReady c h4 [new] 0 = true → s2.pollReady c h3 [m] 0 = false →
      exec (.setDrate c) s =
        .next ((s2.afterXfer ⟨c, h3, [], [], .timeout⟩).completed res (evs ++ [.transportTimeout]))) ∧
    (s.pollReady c hr [] 1 = true → s1.pollReady c h4 [new] 0 = true → s2.pollReady c h3 [m] 0 = true →
      exec (.setDrate c) s = .next ((s2.afterXfer ⟨c, h3, [m], [], .ok⟩).completed res evs))

/-- SET_DEV: RES at once; DEVIATN is written whole, with no read (43_link.md R187). -/
def Obligations.SetDevWritesTheWholeRegister : Prop :=
  ∀ (c : Chip) (s : State), s.status.init = true →
    let b := (dev s.opa).1
    let evs := if s.opa < Config.dvL ∨ Config.dvU < s.opa then [Event.invalidParameter] else []
    let h := hdrWrite s.params.regaddr.aDeviatn
    (s.pollReady c h [b] 0 = false → exec (.setDev c) s =
      .next ((s.afterXfer ⟨c, h, [], [], .timeout⟩).completed (b.zeroExtend 32) (evs ++ [.transportTimeout]))) ∧
    (s.pollReady c h [b] 0 = true → exec (.setDev c) s =
      .next ((s.afterXfer ⟨c, h, [b], [], .ok⟩).completed (b.zeroExtend 32) evs))

/-- SET_BW: RES at once; a live read of MDMCFG4, its low nibble kept with the bandwidth nibble; never a clamp (43_link.md
R190). -/
def Obligations.SetBwMergesTheNibble : Prop :=
  ∀ (c : Chip) (s : State), s.status.init = true →
    let res : Word := (bw s.opa).zeroExtend 32
    let hr := hdrRead s.params.regaddr.aMdmcfg4
    let h4 := hdrWrite s.params.regaddr.aMdmcfg4
    let b := s.answerByte c hr
    let new := (b &&& 0x0F#8) ||| bw s.opa
    let s1 := s.afterXfer ⟨c, hr, [], [b], .ok⟩
    (s.pollReady c hr [] 1 = false → exec (.setBw c) s =
      .next ((s.afterXfer ⟨c, hr, [], [], .timeout⟩).completed res [.transportTimeout])) ∧
    (s.pollReady c hr [] 1 = true → s1.pollReady c h4 [new] 0 = false → exec (.setBw c) s =
      .next ((s1.afterXfer ⟨c, h4, [], [], .timeout⟩).completed res [.transportTimeout])) ∧
    (s.pollReady c hr [] 1 = true → s1.pollReady c h4 [new] 0 = true → exec (.setBw c) s =
      .next ((s1.afterXfer ⟨c, h4, [new], [], .ok⟩).completed res []))

/-- SET_CHSP: RES at once; a live read of MDMCFG1, its high nibble kept with E in the CHANSPC_E slot, then M to MDMCFG0
(43_link.md R193). -/
def Obligations.SetChspMergesTheExponent : Prop :=
  ∀ (c : Chip) (s : State), s.status.init = true →
    let k := chsp s.opa
    let res : Word := (256 * k.e + k.m : Nat)
    let evs := if s.opa < Config.csL ∨ Config.csU < s.opa then [Event.invalidParameter] else []
    let hr := hdrRead s.params.regaddr.aMdmcfg1
    let h1 := hdrWrite s.params.regaddr.aMdmcfg1
    let h0 := hdrWrite s.params.regaddr.aMdmcfg0
    let b := s.answerByte c hr
    let new := (b &&& 0xF0#8) ||| BitVec.ofNat 8 k.e
    let m := BitVec.ofNat 8 k.m
    let s1 := s.afterXfer ⟨c, hr, [], [b], .ok⟩
    let s2 := s1.afterXfer ⟨c, h1, [new], [], .ok⟩
    (s.pollReady c hr [] 1 = false → exec (.setChsp c) s =
      .next ((s.afterXfer ⟨c, hr, [], [], .timeout⟩).completed res (evs ++ [.transportTimeout]))) ∧
    (s.pollReady c hr [] 1 = true → s1.pollReady c h1 [new] 0 = false → exec (.setChsp c) s =
      .next ((s1.afterXfer ⟨c, h1, [], [], .timeout⟩).completed res (evs ++ [.transportTimeout]))) ∧
    (s.pollReady c hr [] 1 = true → s1.pollReady c h1 [new] 0 = true → s2.pollReady c h0 [m] 0 = false →
      exec (.setChsp c) s =
        .next ((s2.afterXfer ⟨c, h0, [], [], .timeout⟩).completed res (evs ++ [.transportTimeout]))) ∧
    (s.pollReady c hr [] 1 = true → s1.pollReady c h1 [new] 0 = true → s2.pollReady c h0 [m] 0 = true →
      exec (.setChsp c) s = .next ((s2.afterXfer ⟨c, h0, [m], [], .ok⟩).completed res evs))
end

