-- ==== Sys2Proof/Laws/State.lean ====
section
/-! SUPPORT. One lemma per field per update of the state, and of STATUS: a proof never unfolds a record update. -/

namespace Sys2Proof.Machine

/-! ### State.setRes -/

@[simp] theorem State.setRes_params (s : State) (v : Word) : (s.setRes v).params = s.params := rfl
@[simp] theorem State.setRes_cmd (s : State) (v : Word) : (s.setRes v).cmd = s.cmd := rfl
@[simp] theorem State.setRes_status (s : State) (v : Word) : (s.setRes v).status = s.status := rfl
@[simp] theorem State.setRes_opaLo (s : State) (v : Word) : (s.setRes v).opaLo = s.opaLo := rfl
@[simp] theorem State.setRes_opaHi (s : State) (v : Word) : (s.setRes v).opaHi = s.opaHi := rfl
@[simp] theorem State.setRes_res (s : State) (v : Word) : (s.setRes v).res = v := rfl
@[simp] theorem State.setRes_buf (s : State) (v : Word) : (s.setRes v).buf = s.buf := rfl
@[simp] theorem State.setRes_eng (s : State) (v : Word) : (s.setRes v).eng = s.eng := rfl
@[simp] theorem State.setRes_sel (s : State) (v : Word) : (s.setRes v).sel = s.sel := rfl
@[simp] theorem State.setRes_lines (s : State) (v : Word) : (s.setRes v).lines = s.lines := rfl
@[simp] theorem State.setRes_history (s : State) (v : Word) : (s.setRes v).history = s.history := rfl
@[simp] theorem State.setRes_inputs (s : State) (v : Word) : (s.setRes v).inputs = s.inputs := rfl
@[simp] theorem State.setRes_answers (s : State) (v : Word) : (s.setRes v).answers = s.answers := rfl
@[simp] theorem State.setRes_rdata (s : State) (v : Word) : (s.setRes v).rdata = s.rdata := rfl
@[simp] theorem State.setRes_chipDraws (s : State) (v : Word) : (s.setRes v).chipDraws = s.chipDraws := rfl
@[simp] theorem State.setRes_readDraws (s : State) (v : Word) : (s.setRes v).readDraws = s.readDraws := rfl

/-! ### State.setBuf -/

@[simp] theorem State.setBuf_params (s : State) (m : Memory) : (s.setBuf m).params = s.params := rfl
@[simp] theorem State.setBuf_cmd (s : State) (m : Memory) : (s.setBuf m).cmd = s.cmd := rfl
@[simp] theorem State.setBuf_status (s : State) (m : Memory) : (s.setBuf m).status = s.status := rfl
@[simp] theorem State.setBuf_opaLo (s : State) (m : Memory) : (s.setBuf m).opaLo = s.opaLo := rfl
@[simp] theorem State.setBuf_opaHi (s : State) (m : Memory) : (s.setBuf m).opaHi = s.opaHi := rfl
@[simp] theorem State.setBuf_res (s : State) (m : Memory) : (s.setBuf m).res = s.res := rfl
@[simp] theorem State.setBuf_buf (s : State) (m : Memory) : (s.setBuf m).buf = m := rfl
@[simp] theorem State.setBuf_eng (s : State) (m : Memory) : (s.setBuf m).eng = s.eng := rfl
@[simp] theorem State.setBuf_sel (s : State) (m : Memory) : (s.setBuf m).sel = s.sel := rfl
@[simp] theorem State.setBuf_lines (s : State) (m : Memory) : (s.setBuf m).lines = s.lines := rfl
@[simp] theorem State.setBuf_history (s : State) (m : Memory) : (s.setBuf m).history = s.history := rfl
@[simp] theorem State.setBuf_inputs (s : State) (m : Memory) : (s.setBuf m).inputs = s.inputs := rfl
@[simp] theorem State.setBuf_answers (s : State) (m : Memory) : (s.setBuf m).answers = s.answers := rfl
@[simp] theorem State.setBuf_rdata (s : State) (m : Memory) : (s.setBuf m).rdata = s.rdata := rfl
@[simp] theorem State.setBuf_chipDraws (s : State) (m : Memory) : (s.setBuf m).chipDraws = s.chipDraws := rfl
@[simp] theorem State.setBuf_readDraws (s : State) (m : Memory) : (s.setBuf m).readDraws = s.readDraws := rfl

/-! ### State.setEng -/

@[simp] theorem State.setEng_params (s : State) (e : Engine) : (s.setEng e).params = s.params := rfl
@[simp] theorem State.setEng_cmd (s : State) (e : Engine) : (s.setEng e).cmd = s.cmd := rfl
@[simp] theorem State.setEng_status (s : State) (e : Engine) : (s.setEng e).status = s.status := rfl
@[simp] theorem State.setEng_opaLo (s : State) (e : Engine) : (s.setEng e).opaLo = s.opaLo := rfl
@[simp] theorem State.setEng_opaHi (s : State) (e : Engine) : (s.setEng e).opaHi = s.opaHi := rfl
@[simp] theorem State.setEng_res (s : State) (e : Engine) : (s.setEng e).res = s.res := rfl
@[simp] theorem State.setEng_buf (s : State) (e : Engine) : (s.setEng e).buf = s.buf := rfl
@[simp] theorem State.setEng_eng (s : State) (e : Engine) : (s.setEng e).eng = e := rfl
@[simp] theorem State.setEng_sel (s : State) (e : Engine) : (s.setEng e).sel = s.sel := rfl
@[simp] theorem State.setEng_lines (s : State) (e : Engine) : (s.setEng e).lines = s.lines := rfl
@[simp] theorem State.setEng_history (s : State) (e : Engine) : (s.setEng e).history = s.history := rfl
@[simp] theorem State.setEng_inputs (s : State) (e : Engine) : (s.setEng e).inputs = s.inputs := rfl
@[simp] theorem State.setEng_answers (s : State) (e : Engine) : (s.setEng e).answers = s.answers := rfl
@[simp] theorem State.setEng_rdata (s : State) (e : Engine) : (s.setEng e).rdata = s.rdata := rfl
@[simp] theorem State.setEng_chipDraws (s : State) (e : Engine) : (s.setEng e).chipDraws = s.chipDraws := rfl
@[simp] theorem State.setEng_readDraws (s : State) (e : Engine) : (s.setEng e).readDraws = s.readDraws := rfl
@[simp] theorem State.setEng_setEng (s : State) (e e' : Engine) : (s.setEng e).setEng e' = s.setEng e' := rfl
@[simp] theorem State.setEng_complete (s : State) (e : Engine) (evs : List Event) : (s.setEng e).complete evs = s.complete evs := rfl

/-! ### State.start -/

@[simp] theorem State.start_params (s : State) (evs : List Event) (todo : List Txn) : (s.start evs todo).params = s.params := rfl
@[simp] theorem State.start_cmd (s : State) (evs : List Event) (todo : List Txn) : (s.start evs todo).cmd = s.cmd := rfl
@[simp] theorem State.start_status (s : State) (evs : List Event) (todo : List Txn) : (s.start evs todo).status = s.status := rfl
@[simp] theorem State.start_opaLo (s : State) (evs : List Event) (todo : List Txn) : (s.start evs todo).opaLo = s.opaLo := rfl
@[simp] theorem State.start_opaHi (s : State) (evs : List Event) (todo : List Txn) : (s.start evs todo).opaHi = s.opaHi := rfl
@[simp] theorem State.start_res (s : State) (evs : List Event) (todo : List Txn) : (s.start evs todo).res = s.res := rfl
@[simp] theorem State.start_buf (s : State) (evs : List Event) (todo : List Txn) : (s.start evs todo).buf = s.buf := rfl
@[simp] theorem State.start_eng (s : State) (evs : List Event) (todo : List Txn) : (s.start evs todo).eng = .running ⟨todo, 0x00, evs⟩ := rfl
@[simp] theorem State.start_sel (s : State) (evs : List Event) (todo : List Txn) : (s.start evs todo).sel = s.sel := rfl
@[simp] theorem State.start_lines (s : State) (evs : List Event) (todo : List Txn) : (s.start evs todo).lines = s.lines := rfl
@[simp] theorem State.start_history (s : State) (evs : List Event) (todo : List Txn) : (s.start evs todo).history = s.history := rfl
@[simp] theorem State.start_inputs (s : State) (evs : List Event) (todo : List Txn) : (s.start evs todo).inputs = s.inputs := rfl
@[simp] theorem State.start_answers (s : State) (evs : List Event) (todo : List Txn) : (s.start evs todo).answers = s.answers := rfl
@[simp] theorem State.start_rdata (s : State) (evs : List Event) (todo : List Txn) : (s.start evs todo).rdata = s.rdata := rfl
@[simp] theorem State.start_chipDraws (s : State) (evs : List Event) (todo : List Txn) : (s.start evs todo).chipDraws = s.chipDraws := rfl
@[simp] theorem State.start_readDraws (s : State) (evs : List Event) (todo : List Txn) : (s.start evs todo).readDraws = s.readDraws := rfl

/-! ### State.raise -/

@[simp] theorem State.raise_params (s : State) (e : Event) : (s.raise e).params = s.params := rfl
@[simp] theorem State.raise_cmd (s : State) (e : Event) : (s.raise e).cmd = s.cmd := rfl
@[simp] theorem State.raise_status (s : State) (e : Event) : (s.raise e).status = s.status := rfl
@[simp] theorem State.raise_opaLo (s : State) (e : Event) : (s.raise e).opaLo = s.opaLo := rfl
@[simp] theorem State.raise_opaHi (s : State) (e : Event) : (s.raise e).opaHi = s.opaHi := rfl
@[simp] theorem State.raise_res (s : State) (e : Event) : (s.raise e).res = s.res := rfl
@[simp] theorem State.raise_buf (s : State) (e : Event) : (s.raise e).buf = s.buf := rfl
@[simp] theorem State.raise_eng (s : State) (e : Event) : (s.raise e).eng = .running ⟨[], 0x00, [e]⟩ := rfl
@[simp] theorem State.raise_sel (s : State) (e : Event) : (s.raise e).sel = s.sel := rfl
@[simp] theorem State.raise_lines (s : State) (e : Event) : (s.raise e).lines = s.lines := rfl
@[simp] theorem State.raise_history (s : State) (e : Event) : (s.raise e).history = s.history := rfl
@[simp] theorem State.raise_inputs (s : State) (e : Event) : (s.raise e).inputs = s.inputs := rfl
@[simp] theorem State.raise_answers (s : State) (e : Event) : (s.raise e).answers = s.answers := rfl
@[simp] theorem State.raise_rdata (s : State) (e : Event) : (s.raise e).rdata = s.rdata := rfl
@[simp] theorem State.raise_chipDraws (s : State) (e : Event) : (s.raise e).chipDraws = s.chipDraws := rfl
@[simp] theorem State.raise_readDraws (s : State) (e : Event) : (s.raise e).readDraws = s.readDraws := rfl

/-! ### State.complete -/

@[simp] theorem State.complete_params (s : State) (evs : List Event) : (s.complete evs).params = s.params := rfl
@[simp] theorem State.complete_cmd (s : State) (evs : List Event) : (s.complete evs).cmd = s.cmd := rfl
@[simp] theorem State.complete_status (s : State) (evs : List Event) : (s.complete evs).status = s.status.complete evs := rfl
@[simp] theorem State.complete_opaLo (s : State) (evs : List Event) : (s.complete evs).opaLo = s.opaLo := rfl
@[simp] theorem State.complete_opaHi (s : State) (evs : List Event) : (s.complete evs).opaHi = s.opaHi := rfl
@[simp] theorem State.complete_res (s : State) (evs : List Event) : (s.complete evs).res = s.res := rfl
@[simp] theorem State.complete_buf (s : State) (evs : List Event) : (s.complete evs).buf = s.buf := rfl
@[simp] theorem State.complete_eng (s : State) (evs : List Event) : (s.complete evs).eng = .idle := rfl
@[simp] theorem State.complete_sel (s : State) (evs : List Event) : (s.complete evs).sel = none := rfl
@[simp] theorem State.complete_lines (s : State) (evs : List Event) : (s.complete evs).lines = s.lines := rfl
@[simp] theorem State.complete_history (s : State) (evs : List Event) : (s.complete evs).history = s.history := rfl
@[simp] theorem State.complete_inputs (s : State) (evs : List Event) : (s.complete evs).inputs = s.inputs := rfl
@[simp] theorem State.complete_answers (s : State) (evs : List Event) : (s.complete evs).answers = s.answers := rfl
@[simp] theorem State.complete_rdata (s : State) (evs : List Event) : (s.complete evs).rdata = s.rdata := rfl
@[simp] theorem State.complete_chipDraws (s : State) (evs : List Event) : (s.complete evs).chipDraws = s.chipDraws := rfl
@[simp] theorem State.complete_readDraws (s : State) (evs : List Event) : (s.complete evs).readDraws = s.readDraws := rfl

/-! ### State.select -/

@[simp] theorem State.select_params (s : State) (c : Chip) : (s.select c).params = s.params := rfl
@[simp] theorem State.select_cmd (s : State) (c : Chip) : (s.select c).cmd = s.cmd := rfl
@[simp] theorem State.select_status (s : State) (c : Chip) : (s.select c).status = s.status := rfl
@[simp] theorem State.select_opaLo (s : State) (c : Chip) : (s.select c).opaLo = s.opaLo := rfl
@[simp] theorem State.select_opaHi (s : State) (c : Chip) : (s.select c).opaHi = s.opaHi := rfl
@[simp] theorem State.select_res (s : State) (c : Chip) : (s.select c).res = s.res := rfl
@[simp] theorem State.select_buf (s : State) (c : Chip) : (s.select c).buf = s.buf := rfl
@[simp] theorem State.select_eng (s : State) (c : Chip) : (s.select c).eng = s.eng := rfl
@[simp] theorem State.select_sel (s : State) (c : Chip) : (s.select c).sel = some c := rfl
@[simp] theorem State.select_lines (s : State) (c : Chip) : (s.select c).lines = s.lines := rfl
@[simp] theorem State.select_history (s : State) (c : Chip) : (s.select c).history = s.history := rfl
@[simp] theorem State.select_inputs (s : State) (c : Chip) : (s.select c).inputs = s.inputs := rfl
@[simp] theorem State.select_answers (s : State) (c : Chip) : (s.select c).answers = s.answers := rfl
@[simp] theorem State.select_rdata (s : State) (c : Chip) : (s.select c).rdata = s.rdata := rfl
@[simp] theorem State.select_chipDraws (s : State) (c : Chip) : (s.select c).chipDraws = s.chipDraws := rfl
@[simp] theorem State.select_readDraws (s : State) (c : Chip) : (s.select c).readDraws = s.readDraws := rfl

/-! ### State.deselect -/

@[simp] theorem State.deselect_params (s : State) : s.deselect.params = s.params := rfl
@[simp] theorem State.deselect_cmd (s : State) : s.deselect.cmd = s.cmd := rfl
@[simp] theorem State.deselect_status (s : State) : s.deselect.status = s.status := rfl
@[simp] theorem State.deselect_opaLo (s : State) : s.deselect.opaLo = s.opaLo := rfl
@[simp] theorem State.deselect_opaHi (s : State) : s.deselect.opaHi = s.opaHi := rfl
@[simp] theorem State.deselect_res (s : State) : s.deselect.res = s.res := rfl
@[simp] theorem State.deselect_buf (s : State) : s.deselect.buf = s.buf := rfl
@[simp] theorem State.deselect_eng (s : State) : s.deselect.eng = s.eng := rfl
@[simp] theorem State.deselect_sel (s : State) : s.deselect.sel = none := rfl
@[simp] theorem State.deselect_lines (s : State) : s.deselect.lines = s.lines := rfl
@[simp] theorem State.deselect_history (s : State) : s.deselect.history = s.history := rfl
@[simp] theorem State.deselect_inputs (s : State) : s.deselect.inputs = s.inputs := rfl
@[simp] theorem State.deselect_answers (s : State) : s.deselect.answers = s.answers := rfl
@[simp] theorem State.deselect_rdata (s : State) : s.deselect.rdata = s.rdata := rfl
@[simp] theorem State.deselect_chipDraws (s : State) : s.deselect.chipDraws = s.chipDraws := rfl
@[simp] theorem State.deselect_readDraws (s : State) : s.deselect.readDraws = s.readDraws := rfl

/-! ### State.record -/

@[simp] theorem State.record_params (s : State) (e : BusEvent) : (s.record e).params = s.params := rfl
@[simp] theorem State.record_cmd (s : State) (e : BusEvent) : (s.record e).cmd = s.cmd := rfl
@[simp] theorem State.record_status (s : State) (e : BusEvent) : (s.record e).status = s.status := rfl
@[simp] theorem State.record_opaLo (s : State) (e : BusEvent) : (s.record e).opaLo = s.opaLo := rfl
@[simp] theorem State.record_opaHi (s : State) (e : BusEvent) : (s.record e).opaHi = s.opaHi := rfl
@[simp] theorem State.record_res (s : State) (e : BusEvent) : (s.record e).res = s.res := rfl
@[simp] theorem State.record_buf (s : State) (e : BusEvent) : (s.record e).buf = s.buf := rfl
@[simp] theorem State.record_eng (s : State) (e : BusEvent) : (s.record e).eng = s.eng := rfl
@[simp] theorem State.record_sel (s : State) (e : BusEvent) : (s.record e).sel = s.sel := rfl
@[simp] theorem State.record_lines (s : State) (e : BusEvent) : (s.record e).lines = s.lines := rfl
@[simp] theorem State.record_history (s : State) (e : BusEvent) : (s.record e).history = s.history ++ [e] := rfl
@[simp] theorem State.record_inputs (s : State) (e : BusEvent) : (s.record e).inputs = s.inputs := rfl
@[simp] theorem State.record_answers (s : State) (e : BusEvent) : (s.record e).answers = s.answers := rfl
@[simp] theorem State.record_rdata (s : State) (e : BusEvent) : (s.record e).rdata = s.rdata := rfl
@[simp] theorem State.record_chipDraws (s : State) (e : BusEvent) : (s.record e).chipDraws = s.chipDraws := rfl
@[simp] theorem State.record_readDraws (s : State) (e : BusEvent) : (s.record e).readDraws = s.readDraws := rfl

/-! ### State.drawn -/

@[simp] theorem State.drawn_params (s : State) : s.drawn.params = s.params := rfl
@[simp] theorem State.drawn_cmd (s : State) : s.drawn.cmd = s.cmd := rfl
@[simp] theorem State.drawn_status (s : State) : s.drawn.status = s.status := rfl
@[simp] theorem State.drawn_opaLo (s : State) : s.drawn.opaLo = s.opaLo := rfl
@[simp] theorem State.drawn_opaHi (s : State) : s.drawn.opaHi = s.opaHi := rfl
@[simp] theorem State.drawn_res (s : State) : s.drawn.res = s.res := rfl
@[simp] theorem State.drawn_buf (s : State) : s.drawn.buf = s.buf := rfl
@[simp] theorem State.drawn_eng (s : State) : s.drawn.eng = s.eng := rfl
@[simp] theorem State.drawn_sel (s : State) : s.drawn.sel = s.sel := rfl
@[simp] theorem State.drawn_lines (s : State) : s.drawn.lines = s.lines := rfl
@[simp] theorem State.drawn_history (s : State) : s.drawn.history = s.history := rfl
@[simp] theorem State.drawn_inputs (s : State) : s.drawn.inputs = s.inputs := rfl
@[simp] theorem State.drawn_answers (s : State) : s.drawn.answers = s.answers.tail := rfl
@[simp] theorem State.drawn_rdata (s : State) : s.drawn.rdata = s.rdata := rfl
@[simp] theorem State.drawn_chipDraws (s : State) : s.drawn.chipDraws = s.chipDraws + 1 := rfl
@[simp] theorem State.drawn_readDraws (s : State) : s.drawn.readDraws = s.readDraws := rfl

/-! ### State.afterXfer -/

@[simp] theorem State.afterXfer_params (s : State) (e : BusEvent) : (s.afterXfer e).params = s.params := rfl
@[simp] theorem State.afterXfer_cmd (s : State) (e : BusEvent) : (s.afterXfer e).cmd = s.cmd := rfl
@[simp] theorem State.afterXfer_status (s : State) (e : BusEvent) : (s.afterXfer e).status = s.status := rfl
@[simp] theorem State.afterXfer_opaLo (s : State) (e : BusEvent) : (s.afterXfer e).opaLo = s.opaLo := rfl
@[simp] theorem State.afterXfer_opaHi (s : State) (e : BusEvent) : (s.afterXfer e).opaHi = s.opaHi := rfl
@[simp] theorem State.afterXfer_res (s : State) (e : BusEvent) : (s.afterXfer e).res = s.res := rfl
@[simp] theorem State.afterXfer_buf (s : State) (e : BusEvent) : (s.afterXfer e).buf = s.buf := rfl
@[simp] theorem State.afterXfer_eng (s : State) (e : BusEvent) : (s.afterXfer e).eng = s.eng := rfl
@[simp] theorem State.afterXfer_sel (s : State) (e : BusEvent) : (s.afterXfer e).sel = none := rfl
@[simp] theorem State.afterXfer_lines (s : State) (e : BusEvent) : (s.afterXfer e).lines = s.lines := rfl
@[simp] theorem State.afterXfer_history (s : State) (e : BusEvent) : (s.afterXfer e).history = s.history ++ [e] := rfl
@[simp] theorem State.afterXfer_inputs (s : State) (e : BusEvent) : (s.afterXfer e).inputs = s.inputs := rfl
@[simp] theorem State.afterXfer_answers (s : State) (e : BusEvent) : (s.afterXfer e).answers = s.answers.tail := rfl
@[simp] theorem State.afterXfer_rdata (s : State) (e : BusEvent) : (s.afterXfer e).rdata = s.rdata := rfl
@[simp] theorem State.afterXfer_chipDraws (s : State) (e : BusEvent) : (s.afterXfer e).chipDraws = s.chipDraws + 1 := rfl
@[simp] theorem State.afterXfer_readDraws (s : State) (e : BusEvent) : (s.afterXfer e).readDraws = s.readDraws := rfl

/-! ### State.next -/

@[simp] theorem State.next_params (s : State) (rest : List Input) : (s.next rest).params = s.params := rfl
@[simp] theorem State.next_cmd (s : State) (rest : List Input) : (s.next rest).cmd = s.cmd := rfl
@[simp] theorem State.next_status (s : State) (rest : List Input) : (s.next rest).status = s.status := rfl
@[simp] theorem State.next_opaLo (s : State) (rest : List Input) : (s.next rest).opaLo = s.opaLo := rfl
@[simp] theorem State.next_opaHi (s : State) (rest : List Input) : (s.next rest).opaHi = s.opaHi := rfl
@[simp] theorem State.next_res (s : State) (rest : List Input) : (s.next rest).res = s.res := rfl
@[simp] theorem State.next_buf (s : State) (rest : List Input) : (s.next rest).buf = s.buf := rfl
@[simp] theorem State.next_eng (s : State) (rest : List Input) : (s.next rest).eng = s.eng := rfl
@[simp] theorem State.next_sel (s : State) (rest : List Input) : (s.next rest).sel = s.sel := rfl
@[simp] theorem State.next_lines (s : State) (rest : List Input) : (s.next rest).lines = s.lines := rfl
@[simp] theorem State.next_history (s : State) (rest : List Input) : (s.next rest).history = s.history := rfl
@[simp] theorem State.next_inputs (s : State) (rest : List Input) : (s.next rest).inputs = rest := rfl
@[simp] theorem State.next_answers (s : State) (rest : List Input) : (s.next rest).answers = s.answers := rfl
@[simp] theorem State.next_rdata (s : State) (rest : List Input) : (s.next rest).rdata = s.rdata := rfl
@[simp] theorem State.next_chipDraws (s : State) (rest : List Input) : (s.next rest).chipDraws = s.chipDraws := rfl
@[simp] theorem State.next_readDraws (s : State) (rest : List Input) : (s.next rest).readDraws = s.readDraws := rfl

/-! ### State.accept -/

@[simp] theorem State.accept_params (s : State) (w : Word) : (s.accept w).params = s.params := rfl
@[simp] theorem State.accept_cmd (s : State) (w : Word) : (s.accept w).cmd = w := rfl
@[simp] theorem State.accept_status (s : State) (w : Word) : (s.accept w).status = s.status.accept := rfl
@[simp] theorem State.accept_opaLo (s : State) (w : Word) : (s.accept w).opaLo = s.opaLo := rfl
@[simp] theorem State.accept_opaHi (s : State) (w : Word) : (s.accept w).opaHi = s.opaHi := rfl
@[simp] theorem State.accept_res (s : State) (w : Word) : (s.accept w).res = s.res := rfl
@[simp] theorem State.accept_buf (s : State) (w : Word) : (s.accept w).buf = s.buf := rfl
@[simp] theorem State.accept_eng (s : State) (w : Word) : (s.accept w).eng = .accepted := rfl
@[simp] theorem State.accept_sel (s : State) (w : Word) : (s.accept w).sel = s.sel := rfl
@[simp] theorem State.accept_lines (s : State) (w : Word) : (s.accept w).lines = s.lines := rfl
@[simp] theorem State.accept_history (s : State) (w : Word) : (s.accept w).history = s.history := rfl
@[simp] theorem State.accept_inputs (s : State) (w : Word) : (s.accept w).inputs = s.inputs := rfl
@[simp] theorem State.accept_answers (s : State) (w : Word) : (s.accept w).answers = s.answers := rfl
@[simp] theorem State.accept_rdata (s : State) (w : Word) : (s.accept w).rdata = s.rdata := rfl
@[simp] theorem State.accept_chipDraws (s : State) (w : Word) : (s.accept w).chipDraws = s.chipDraws := rfl
@[simp] theorem State.accept_readDraws (s : State) (w : Word) : (s.accept w).readDraws = s.readDraws := rfl

/-! ### State.overrun -/

@[simp] theorem State.overrun_params (s : State) : s.overrun.params = s.params := rfl
@[simp] theorem State.overrun_cmd (s : State) : s.overrun.cmd = s.cmd := rfl
@[simp] theorem State.overrun_status (s : State) : s.overrun.status = s.status.overrun := rfl
@[simp] theorem State.overrun_opaLo (s : State) : s.overrun.opaLo = s.opaLo := rfl
@[simp] theorem State.overrun_opaHi (s : State) : s.overrun.opaHi = s.opaHi := rfl
@[simp] theorem State.overrun_res (s : State) : s.overrun.res = s.res := rfl
@[simp] theorem State.overrun_buf (s : State) : s.overrun.buf = s.buf := rfl
@[simp] theorem State.overrun_eng (s : State) : s.overrun.eng = s.eng := rfl
@[simp] theorem State.overrun_sel (s : State) : s.overrun.sel = s.sel := rfl
@[simp] theorem State.overrun_lines (s : State) : s.overrun.lines = s.lines := rfl
@[simp] theorem State.overrun_history (s : State) : s.overrun.history = s.history := rfl
@[simp] theorem State.overrun_inputs (s : State) : s.overrun.inputs = s.inputs := rfl
@[simp] theorem State.overrun_answers (s : State) : s.overrun.answers = s.answers := rfl
@[simp] theorem State.overrun_rdata (s : State) : s.overrun.rdata = s.rdata := rfl
@[simp] theorem State.overrun_chipDraws (s : State) : s.overrun.chipDraws = s.chipDraws := rfl
@[simp] theorem State.overrun_readDraws (s : State) : s.overrun.readDraws = s.readDraws := rfl

/-! ### State.returned -/

@[simp] theorem State.returned_params (s : State) (v : Word) : (s.returned v).params = s.params := rfl
@[simp] theorem State.returned_cmd (s : State) (v : Word) : (s.returned v).cmd = s.cmd := rfl
@[simp] theorem State.returned_status (s : State) (v : Word) : (s.returned v).status = s.status := rfl
@[simp] theorem State.returned_opaLo (s : State) (v : Word) : (s.returned v).opaLo = s.opaLo := rfl
@[simp] theorem State.returned_opaHi (s : State) (v : Word) : (s.returned v).opaHi = s.opaHi := rfl
@[simp] theorem State.returned_res (s : State) (v : Word) : (s.returned v).res = s.res := rfl
@[simp] theorem State.returned_buf (s : State) (v : Word) : (s.returned v).buf = s.buf := rfl
@[simp] theorem State.returned_eng (s : State) (v : Word) : (s.returned v).eng = s.eng := rfl
@[simp] theorem State.returned_sel (s : State) (v : Word) : (s.returned v).sel = s.sel := rfl
@[simp] theorem State.returned_lines (s : State) (v : Word) : (s.returned v).lines = s.lines := rfl
@[simp] theorem State.returned_history (s : State) (v : Word) : (s.returned v).history = s.history := rfl
@[simp] theorem State.returned_inputs (s : State) (v : Word) : (s.returned v).inputs = s.inputs := rfl
@[simp] theorem State.returned_answers (s : State) (v : Word) : (s.returned v).answers = s.answers := rfl
@[simp] theorem State.returned_rdata (s : State) (v : Word) : (s.returned v).rdata = some v := rfl
@[simp] theorem State.returned_chipDraws (s : State) (v : Word) : (s.returned v).chipDraws = s.chipDraws := rfl
@[simp] theorem State.returned_readDraws (s : State) (v : Word) : (s.returned v).readDraws = s.readDraws + 1 := rfl

/-! ### Status.accept -/

@[simp] theorem Status.accept_busy (st : Status) : st.accept.busy = true := rfl
@[simp] theorem Status.accept_done (st : Status) : st.accept.done = false := rfl
@[simp] theorem Status.accept_timeout (st : Status) : st.accept.timeout = st.timeout := rfl
@[simp] theorem Status.accept_clamp (st : Status) : st.accept.clamp = st.clamp := rfl
@[simp] theorem Status.accept_illegal (st : Status) : st.accept.illegal = st.illegal := rfl
@[simp] theorem Status.accept_ovr (st : Status) : st.accept.ovr = st.ovr := rfl
@[simp] theorem Status.accept_noinit (st : Status) : st.accept.noinit = st.noinit := rfl
@[simp] theorem Status.accept_init (st : Status) : st.accept.init = st.init := rfl
@[simp] theorem Status.accept_cause (st : Status) : st.accept.cause = st.cause := rfl

/-! ### Status.overrun -/

@[simp] theorem Status.overrun_busy (st : Status) : st.overrun.busy = st.busy := rfl
@[simp] theorem Status.overrun_done (st : Status) : st.overrun.done = st.done := rfl
@[simp] theorem Status.overrun_timeout (st : Status) : st.overrun.timeout = st.timeout := rfl
@[simp] theorem Status.overrun_clamp (st : Status) : st.overrun.clamp = st.clamp := rfl
@[simp] theorem Status.overrun_illegal (st : Status) : st.overrun.illegal = st.illegal := rfl
@[simp] theorem Status.overrun_ovr (st : Status) : st.overrun.ovr = true := rfl
@[simp] theorem Status.overrun_noinit (st : Status) : st.overrun.noinit = st.noinit := rfl
@[simp] theorem Status.overrun_init (st : Status) : st.overrun.init = st.init := rfl
@[simp] theorem Status.overrun_cause (st : Status) : st.overrun.cause = st.cause := rfl

/-! ### Status.writeOneToClear -/

@[simp] theorem Status.writeOneToClear_busy (st : Status) (v : Word) : (st.writeOneToClear v).busy = st.busy := rfl
@[simp] theorem Status.writeOneToClear_done (st : Status) (v : Word) : (st.writeOneToClear v).done = (st.done && !v.getLsbD 1) := rfl
@[simp] theorem Status.writeOneToClear_timeout (st : Status) (v : Word) : (st.writeOneToClear v).timeout = (st.timeout && !v.getLsbD 2) := rfl
@[simp] theorem Status.writeOneToClear_clamp (st : Status) (v : Word) : (st.writeOneToClear v).clamp = (st.clamp && !v.getLsbD 3) := rfl
@[simp] theorem Status.writeOneToClear_illegal (st : Status) (v : Word) : (st.writeOneToClear v).illegal = (st.illegal && !v.getLsbD 4) := rfl
@[simp] theorem Status.writeOneToClear_ovr (st : Status) (v : Word) : (st.writeOneToClear v).ovr = (st.ovr && !v.getLsbD 5) := rfl
@[simp] theorem Status.writeOneToClear_noinit (st : Status) (v : Word) : (st.writeOneToClear v).noinit = (st.noinit && !v.getLsbD 6) := rfl
@[simp] theorem Status.writeOneToClear_init (st : Status) (v : Word) : (st.writeOneToClear v).init = st.init := rfl
@[simp] theorem Status.writeOneToClear_cause (st : Status) (v : Word) : (st.writeOneToClear v).cause = st.cause := rfl

/-! ### Status.complete -/

@[simp] theorem Status.complete_busy (st : Status) (evs : List Event) : (st.complete evs).busy = false := rfl
@[simp] theorem Status.complete_done (st : Status) (evs : List Event) : (st.complete evs).done = true := rfl
@[simp] theorem Status.complete_timeout (st : Status) (evs : List Event) : (st.complete evs).timeout = (st.timeout || evs.contains .transportTimeout) := rfl
@[simp] theorem Status.complete_clamp (st : Status) (evs : List Event) : (st.complete evs).clamp = (st.clamp || evs.contains .invalidParameter) := rfl
@[simp] theorem Status.complete_illegal (st : Status) (evs : List Event) : (st.complete evs).illegal = (st.illegal || evs.contains .illegalCommand) := rfl
@[simp] theorem Status.complete_ovr (st : Status) (evs : List Event) : (st.complete evs).ovr = st.ovr := rfl
@[simp] theorem Status.complete_noinit (st : Status) (evs : List Event) : (st.complete evs).noinit = (st.noinit || evs.contains .busNotInitialized) := rfl
@[simp] theorem Status.complete_init (st : Status) (evs : List Event) : (st.complete evs).init = st.init := rfl
@[simp] theorem Status.complete_cause (st : Status) (evs : List Event) : (st.complete evs).cause = causeOf evs := rfl

/-! ### State.resetRce -/

/-- Reset leaves only what is outside the RCE. -/
theorem State.resetRce_eq (s : State) : s.resetRce =
    { State.reset with
      params := s.params, inputs := s.inputs, answers := s.answers, rdata := s.rdata, chipDraws := s.chipDraws, readDraws := s.readDraws } := rfl

@[simp] theorem State.resetRce_status (s : State) : s.resetRce.status = Status.reset := rfl
@[simp] theorem State.resetRce_eng (s : State) : s.resetRce.eng = .idle := rfl
@[simp] theorem State.resetRce_sel (s : State) : s.resetRce.sel = none := rfl
@[simp] theorem State.resetRce_buf (s : State) : s.resetRce.buf = [] := rfl
@[simp] theorem State.resetRce_history (s : State) : s.resetRce.history = [] := rfl
@[simp] theorem State.resetRce_lines (s : State) : s.resetRce.lines = .unconfigured := rfl
@[simp] theorem State.resetRce_inputs (s : State) : s.resetRce.inputs = s.inputs := rfl

end Sys2Proof.Machine
end

