-- ==== Sys2Proof/Laws/Memory.lean ====
section
/-! SUPPORT. BUF: reading after writing, and that every operation keeps the canonical form (Memory.wf). -/

namespace Sys2Proof.Machine

@[simp] theorem Memory.read_nil (a : Nat) : Memory.read [] a = 0#8 := rfl

/-- Below the first index of a canonical tail every byte reads as the reset value. -/
theorem Memory.read_of_lt_of_wfFrom {m : Memory} {lo a : Nat} (h : Memory.wfFrom lo m = true) (ha : a < lo) :
    m.read a = 0#8 := by
  induction m generalizing lo with
  | nil => rfl
  | cons kv rest ih =>
    obtain ⟨k, v⟩ := kv
    simp only [Memory.wfFrom, Bool.and_eq_true, decide_eq_true_eq] at h
    have hk : k ≠ a := by omega
    simpa [Memory.read, hk] using ih h.2 (by omega)

/-- A canonical tail is canonical from any lower index. -/
theorem Memory.wfFrom_mono {m : Memory} {lo lo' : Nat} (h : Memory.wfFrom lo m = true) (hl : lo' ≤ lo) :
    Memory.wfFrom lo' m = true := by
  cases m with
  | nil => rfl
  | cons kv rest =>
    obtain ⟨k, v⟩ := kv
    simp only [Memory.wfFrom, Bool.and_eq_true, decide_eq_true_eq] at h ⊢
    exact ⟨⟨⟨by omega, h.1.1.2⟩, h.1.2⟩, h.2⟩

theorem Memory.write_wfFrom {m : Memory} {lo a : Nat} (b : Byte) (h : Memory.wfFrom lo m = true) (hlo : lo ≤ a)
    (ha : a < Config.bufBytes) : Memory.wfFrom lo (m.write a b) = true := by
  induction m generalizing lo with
  | nil => by_cases hb : b = 0#8 <;> simp [Memory.write, hb, Memory.wfFrom, hlo, ha]
  | cons kv rest ih =>
    obtain ⟨k, v⟩ := kv
    have h0 := h
    simp only [Memory.wfFrom, Bool.and_eq_true, decide_eq_true_eq, bne_iff_ne] at h
    obtain ⟨⟨⟨h1, h2⟩, h3⟩, h4⟩ := h
    by_cases hak : a < k
    · by_cases hb : b = 0#8
      · simpa [Memory.write, hak, hb] using h0
      · simp only [Memory.write, hak, if_true, hb, if_false, Memory.wfFrom, Bool.and_eq_true, decide_eq_true_eq,
          bne_iff_ne]
        exact ⟨⟨⟨hlo, ha⟩, by simpa using hb⟩, ⟨⟨by omega, h2⟩, by simpa using h3⟩, h4⟩
    · by_cases hak' : a = k
      · subst hak'
        by_cases hb : b = 0#8
        · simpa [Memory.write, hb] using Memory.wfFrom_mono h4 (by omega)
        · simp only [Memory.write, lt_irrefl, if_false, if_true, hb, Memory.wfFrom, Bool.and_eq_true, decide_eq_true_eq,
            bne_iff_ne]
          exact ⟨⟨⟨hlo, ha⟩, by simpa using hb⟩, h4⟩
      · simp only [Memory.write, hak, if_false, hak', Memory.wfFrom, Bool.and_eq_true, decide_eq_true_eq, bne_iff_ne]
        exact ⟨⟨⟨h1, h2⟩, by simpa using h3⟩, ih h4 (by omega)⟩

/-- Writing a byte of BUF keeps the canonical form. -/
theorem Memory.write_wf {m : Memory} {a : Nat} (b : Byte) (h : m.wf = true) (ha : a < Config.bufBytes) :
    (m.write a b).wf = true := Memory.write_wfFrom b h (Nat.zero_le a) ha

theorem Memory.writeBytes_wf {m : Memory} (bs : List Byte) {a : Nat} (h : m.wf = true)
    (ha : a + bs.length ≤ Config.bufBytes) : (m.writeBytes a bs).wf = true := by
  induction bs generalizing m a with
  | nil => exact h
  | cons b bs ih =>
    simp only [List.length_cons] at ha
    exact ih (Memory.write_wf b h (by omega)) (by omega)

/-- Writing a BUF word keeps the canonical form. -/
theorem Memory.writeWord_wf {m : Memory} {k : Nat} (w : Word) (h : m.wf = true) (hk : k < 16) :
    (m.writeWord k w).wf = true := by
  apply Memory.writeBytes_wf _ h
  simp only [List.length_cons, List.length_nil, Config.bufBytes]
  omega

/-- Reset's BUF is in its canonical form. -/
theorem Memory.reset_wf : (State.reset.buf).wf = true := rfl

/-- Reading any index after a write of one byte. -/
theorem Memory.read_write {m : Memory} {lo : Nat} (h : Memory.wfFrom lo m = true) (a x : Nat) (b : Byte) :
    (m.write a b).read x = if x = a then b else m.read x := by
  induction m generalizing lo with
  | nil =>
    by_cases hx : x = a
    · by_cases hb : b = 0#8 <;> simp [Memory.write, Memory.read, hb, hx]
    · have hx' : a ≠ x := fun e => hx e.symm
      by_cases hb : b = 0#8 <;> simp [Memory.write, Memory.read, hb, hx, hx']
  | cons kv rest ih =>
    obtain ⟨k, v⟩ := kv
    have h0 := h
    simp only [Memory.wfFrom, Bool.and_eq_true, decide_eq_true_eq] at h
    obtain ⟨-, h4⟩ := h
    by_cases hak : a < k
    · have hr : Memory.read rest a = 0#8 := Memory.read_of_lt_of_wfFrom h4 (by omega)
      by_cases hb : b = 0#8
      · by_cases hx : x = a
        · subst hx
          have hk : k ≠ x := by omega
          simp [Memory.write, hak, hb, Memory.read, hk, hr]
        · simp [Memory.write, hak, hb, hx]
      · by_cases hx : x = a
        · subst hx; simp [Memory.write, hak, hb, Memory.read]
        · have hx' : a ≠ x := fun e => hx e.symm
          simp [Memory.write, hak, hb, Memory.read, hx, hx']
    · by_cases hak' : a = k
      · subst hak'
        by_cases hx : x = a
        · subst hx
          by_cases hb : b = 0#8
          · simpa [Memory.write, hb] using Memory.read_of_lt_of_wfFrom h4 (by omega)
          · simp [Memory.write, hb, Memory.read]
        · have hx' : a ≠ x := fun e => hx e.symm
          by_cases hb : b = 0#8 <;> simp [Memory.write, hb, Memory.read, hx, hx']
      · simp only [Memory.write, hak, if_false, hak', Memory.read, ih h4]
        by_cases hx : x = a
        · subst hx
          have : k ≠ x := fun e => hak' e.symm
          simp [this]
        · simp [hx]

theorem Memory.read_write_same {m : Memory} (h : m.wf = true) (a : Nat) (b : Byte) : (m.write a b).read a = b := by
  simp [Memory.read_write h]

theorem Memory.read_write_other {m : Memory} (h : m.wf = true) {a x : Nat} (b : Byte) (hx : x ≠ a) :
    (m.write a b).read x = m.read x := by
  simp [Memory.read_write h, hx]

/-- Reading any index after writing bytes from an index on. -/
theorem Memory.read_writeBytes {m : Memory} (bs : List Byte) (a x : Nat) (h : m.wf = true)
    (ha : a + bs.length ≤ Config.bufBytes) :
    (m.writeBytes a bs).read x = if a ≤ x ∧ x < a + bs.length then bs.getD (x - a) 0#8 else m.read x := by
  induction bs generalizing m a with
  | nil =>
    have : ¬ (a ≤ x ∧ x < a) := by omega
    simp [Memory.writeBytes, this]
  | cons b bs ih =>
    simp only [List.length_cons] at ha
    simp only [Memory.writeBytes, List.length_cons]
    rw [ih _ (Memory.write_wf b h (by omega)) (by omega), Memory.read_write h]
    rcases Nat.lt_trichotomy x a with hx | hx | hx
    · have h1 : ¬ (a + 1 ≤ x ∧ x < a + 1 + bs.length) := by omega
      have h2 : ¬ (a ≤ x ∧ x < a + (bs.length + 1)) := by omega
      have h3 : x ≠ a := by omega
      rw [if_neg h1, if_neg h2, if_neg h3]
    · subst hx; simp
    · have h3 : x ≠ a := by omega
      obtain ⟨d, hd⟩ : ∃ d, x - a = d + 1 := ⟨x - a - 1, by omega⟩
      have hd' : x - (a + 1) = d := by omega
      have h1 : (a + 1 ≤ x ∧ x < a + 1 + bs.length) ↔ (a ≤ x ∧ x < a + (bs.length + 1)) := by omega
      simp only [h3, if_false, h1, hd, hd', List.getD_cons_succ]

@[simp] theorem Memory.readBytes_length (m : Memory) (a n : Nat) : (m.readBytes a n).length = n := by
  simp [Memory.readBytes]

/-- Equal reads below BUF_BYTES mean equal memories, in the canonical form. -/
theorem Memory.ext_of_wfFrom {m m' : Memory} {lo : Nat} (h : Memory.wfFrom lo m = true) (h' : Memory.wfFrom lo m' = true)
    (hr : ∀ a, m.read a = m'.read a) : m = m' := by
  induction m generalizing m' lo with
  | nil =>
    cases m' with
    | nil => rfl
    | cons kv rest =>
      obtain ⟨k, v⟩ := kv
      simp only [Memory.wfFrom, Bool.and_eq_true, decide_eq_true_eq, bne_iff_ne] at h'
      have := hr k
      simp [Memory.read] at this
      exact absurd this.symm h'.1.2
  | cons kv rest ih =>
    obtain ⟨k, v⟩ := kv
    have h0 := h
    simp only [Memory.wfFrom, Bool.and_eq_true, decide_eq_true_eq, bne_iff_ne] at h
    cases m' with
    | nil =>
      have := hr k
      simp [Memory.read] at this
      exact absurd this h.1.2
    | cons kv' rest' =>
      obtain ⟨k', v'⟩ := kv'
      have h0' := h'
      simp only [Memory.wfFrom, Bool.and_eq_true, decide_eq_true_eq, bne_iff_ne] at h'
      rcases Nat.lt_trichotomy k k' with hk | hk | hk
      · have e := hr k
        have hne : k' ≠ k := by omega
        rw [Memory.read, if_pos rfl, Memory.read, if_neg hne,
          Memory.read_of_lt_of_wfFrom h'.2 (by omega)] at e
        exact absurd e h.1.2
      · subst hk
        have e := hr k
        simp only [Memory.read, if_true] at e
        subst e
        congr 1
        refine ih h.2 h'.2 fun a => ?_
        by_cases hka : k = a
        · subst hka
          rw [Memory.read_of_lt_of_wfFrom h.2 (by omega), Memory.read_of_lt_of_wfFrom h'.2 (by omega)]
        · simpa [Memory.read, hka] using hr a
      · have e := hr k'
        have hne : k ≠ k' := by omega
        rw [Memory.read, if_neg hne, Memory.read, if_pos rfl,
          Memory.read_of_lt_of_wfFrom h.2 (by omega)] at e
        exact absurd e.symm h'.1.2

end Sys2Proof.Machine
end

