-- ==== Sys2Proof/Laws/Ops.lean ====
section
/-! SUPPORT. One lemma per shared operation: recording events, the bus check, BusXfer, running a command's transactions. -/

namespace Sys2Proof.Machine

/-! ### Events -/

@[simp] theorem mem_addEvent (e e' : Event) (evs : List Event) : e' ∈ addEvent e evs ↔ e' = e ∨ e' ∈ evs := by
  unfold addEvent
  split
  · rename_i h
    constructor
    · exact .inr
    · rintro (rfl | h')
      · simpa using h
      · exact h'
  · simp [or_comm]

/-- CAUSE by the priority of R227, highest first. -/
theorem causeOf_eq (evs : List Event) : causeOf evs =
    if .illegalCommand ∈ evs then 3 else if .busNotInitialized ∈ evs then 5
    else if .transportTimeout ∈ evs then 1 else if .invalidParameter ∈ evs then 2 else 0 := by
  unfold causeOf Event.priority
  by_cases h1 : Event.illegalCommand ∈ evs <;> by_cases h2 : Event.busNotInitialized ∈ evs <;>
    by_cases h3 : Event.transportTimeout ∈ evs <;> by_cases h4 : Event.invalidParameter ∈ evs <;>
    simp [h1, h2, h3, h4, Event.code]

/-- CAUSE is never a code that no command raises or flags (10_state.md R33). -/
theorem causeOf_legal (evs : List Event) : causeOf evs ∈ [(0 : BitVec 4), 1, 2, 3, 5] := by
  rw [causeOf_eq]
  split_ifs <;> decide

@[simp] theorem causeOf_nil : causeOf [] = 0 := rfl
@[simp] theorem causeOf_illegal : causeOf [.illegalCommand] = 3 := rfl
@[simp] theorem causeOf_noinit : causeOf [.busNotInitialized] = 5 := rfl
@[simp] theorem causeOf_timeout : causeOf [.transportTimeout] = 1 := rfl
@[simp] theorem causeOf_clamp : causeOf [.invalidParameter] = 2 := rfl
@[simp] theorem causeOf_clamp_timeout : causeOf [.invalidParameter, .transportTimeout] = 1 := rfl
@[simp] theorem addEvent_nil (e : Event) : addEvent e [] = [e] := rfl
@[simp] theorem addEvent_timeout_clampEvents (b : Bool) :
    addEvent .transportTimeout (clampEvents b) = clampEvents b ++ [.transportTimeout] := by cases b <;> rfl

/-! ### The bus check -/

theorem State.onBus_of_init {s : State} (started : State) (h : s.status.init = true) : s.onBus started = started := by
  simp [State.onBus, h]

theorem State.onBus_of_not_init {s : State} (started : State) (h : s.status.init = false) :
    s.onBus started = s.raise .busNotInitialized := by
  simp [State.onBus, h]

/-! ### BusXfer -/

@[simp] theorem State.received_length (s : State) (c : Chip) (hdr : Byte) (out : List Byte) (nin : Nat) :
    (s.received c hdr out nin).length = nin := by simp [State.received]

@[simp] theorem State.received_zero (s : State) (c : Chip) (hdr : Byte) (out : List Byte) :
    s.received c hdr out 0 = [] := rfl

theorem State.received_one (s : State) (c : Chip) (hdr : Byte) :
    s.received c hdr [] 1 = [s.answerByte c hdr] := rfl

/-- A chip answers from `answers`, its draw's index, the bus history and READY_BINDING alone. -/
theorem State.pollReady_congr {s s' : State} (ha : s.answers = s'.answers) (hd : s.chipDraws = s'.chipDraws)
    (hh : s.history = s'.history) (hp : s.params = s'.params) (c : Chip) (hdr : Byte) (out : List Byte) (nin : Nat) :
    s.pollReady c hdr out nin = s'.pollReady c hdr out nin := by
  simp [State.pollReady, ha, hd, hh, hp]

theorem State.received_congr {s s' : State} (ha : s.answers = s'.answers) (hd : s.chipDraws = s'.chipDraws)
    (hh : s.history = s'.history) (c : Chip) (hdr : Byte) (out : List Byte) (nin : Nat) :
    s.received c hdr out nin = s'.received c hdr out nin := by
  simp only [State.received, State.receive, State.exchange, ha, hd, hh]

@[simp] theorem State.pollReady_setEng (s : State) (e : Engine) (c : Chip) (hdr : Byte) (out : List Byte) (nin : Nat) :
    (s.setEng e).pollReady c hdr out nin = s.pollReady c hdr out nin := rfl
@[simp] theorem State.received_setEng (s : State) (e : Engine) (c : Chip) (hdr : Byte) (out : List Byte) (nin : Nat) :
    (s.setEng e).received c hdr out nin = s.received c hdr out nin := rfl
@[simp] theorem State.answerByte_setEng (s : State) (e : Engine) (c : Chip) (hdr : Byte) :
    (s.setEng e).answerByte c hdr = s.answerByte c hdr := rfl
@[simp] theorem State.pollReady_setRes (s : State) (v : Word) (c : Chip) (hdr : Byte) (out : List Byte) (nin : Nat) :
    (s.setRes v).pollReady c hdr out nin = s.pollReady c hdr out nin := rfl
@[simp] theorem State.received_setRes (s : State) (v : Word) (c : Chip) (hdr : Byte) (out : List Byte) (nin : Nat) :
    (s.setRes v).received c hdr out nin = s.received c hdr out nin := rfl
@[simp] theorem State.answerByte_setRes (s : State) (v : Word) (c : Chip) (hdr : Byte) :
    (s.setRes v).answerByte c hdr = s.answerByte c hdr := rfl
@[simp] theorem State.pollReady_select (s : State) (d : Chip) (c : Chip) (hdr : Byte) (out : List Byte) (nin : Nat) :
    (s.select d).pollReady c hdr out nin = s.pollReady c hdr out nin := rfl
@[simp] theorem State.received_select (s : State) (d : Chip) (c : Chip) (hdr : Byte) (out : List Byte) (nin : Nat) :
    (s.select d).received c hdr out nin = s.received c hdr out nin := rfl
@[simp] theorem State.answerByte_select (s : State) (d : Chip) (c : Chip) (hdr : Byte) :
    (s.select d).answerByte c hdr = s.answerByte c hdr := rfl
@[simp] theorem State.pollReady_setBuf (s : State) (m : Memory) (c : Chip) (hdr : Byte) (out : List Byte) (nin : Nat) :
    (s.setBuf m).pollReady c hdr out nin = s.pollReady c hdr out nin := rfl
@[simp] theorem State.received_setBuf (s : State) (m : Memory) (c : Chip) (hdr : Byte) (out : List Byte) (nin : Nat) :
    (s.setBuf m).received c hdr out nin = s.received c hdr out nin := rfl
@[simp] theorem State.answerByte_setBuf (s : State) (m : Memory) (c : Chip) (hdr : Byte) :
    (s.setBuf m).answerByte c hdr = s.answerByte c hdr := rfl
@[simp] theorem State.afterXfer_setEng (s : State) (e' : Engine) (e : BusEvent) :
    (s.setEng e').afterXfer e = (s.afterXfer e).setEng e' := rfl
@[simp] theorem State.afterXfer_setRes (s : State) (v : Word) (e : BusEvent) :
    (s.setRes v).afterXfer e = (s.afterXfer e).setRes v := rfl
@[simp] theorem State.afterXfer_setBuf (s : State) (m : Memory) (e : BusEvent) :
    (s.setBuf m).afterXfer e = (s.afterXfer e).setBuf m := rfl
@[simp] theorem State.afterXfer_select (s : State) (c : Chip) (e : BusEvent) :
    (s.select c).afterXfer e = s.afterXfer e := rfl

/-- A ready chip: the transaction moves its bytes and is recorded with them. -/
theorem State.transfer_of_ready {s : State} {c : Chip} {hdr : Byte} {out : List Byte} {nin : Nat}
    (h : s.pollReady c hdr out nin = true) : s.transfer c hdr out nin =
      (.ok (s.received c hdr out nin), s.afterXfer ⟨c, hdr, out, s.received c hdr out nin, .ok⟩) := by
  simp only [State.transfer, h, if_true]
  rfl

/-- A chip that is not ready: no byte moves, and the timeout is recorded. -/
theorem State.transfer_of_timeout {s : State} {c : Chip} {hdr : Byte} {out : List Byte} {nin : Nat}
    (h : s.pollReady c hdr out nin = false) : s.transfer c hdr out nin =
      (.timeout, s.afterXfer ⟨c, hdr, [], [], .timeout⟩) := by
  simp only [State.transfer, h]
  rfl

theorem State.busXfer_of_ready {s : State} {c : Chip} {hdr : Byte} {out : List Byte} {nin : Nat}
    (h : s.pollReady c hdr out nin = true) : s.busXfer c hdr out nin =
      (.ok (s.received c hdr out nin), s.afterXfer ⟨c, hdr, out, s.received c hdr out nin, .ok⟩) :=
  State.transfer_of_ready (s := s.select c) h

theorem State.busXfer_of_timeout {s : State} {c : Chip} {hdr : Byte} {out : List Byte} {nin : Nat}
    (h : s.pollReady c hdr out nin = false) : s.busXfer c hdr out nin =
      (.timeout, s.afterXfer ⟨c, hdr, [], [], .timeout⟩) :=
  State.transfer_of_timeout (s := s.select c) h

/-! ### Running a command -/

@[simp] theorem State.runTxns_nil (held : Byte) (evs : List Event) (s : State) :
    s.runTxns [] held evs = s.complete evs := rfl

theorem State.runTxns_of_ready {t : Txn} {held : Byte} {s : State} (ts : List Txn) (evs : List Event)
    (h : s.pollReady t.chip t.hdr (t.send.resolve held) t.nin = true) :
    s.runTxns (t :: ts) held evs =
      State.runTxns ts (t.after.hold (s.received t.chip t.hdr (t.send.resolve held) t.nin) held) evs
        (t.after.apply (s.received t.chip t.hdr (t.send.resolve held) t.nin)
          (s.afterXfer ⟨t.chip, t.hdr, t.send.resolve held, s.received t.chip t.hdr (t.send.resolve held) t.nin, .ok⟩)) := by
  simp only [State.runTxns, Txn.xfer, State.busXfer_of_ready h]

theorem State.runTxns_of_timeout {t : Txn} {held : Byte} {s : State} (ts : List Txn) (evs : List Event)
    (h : s.pollReady t.chip t.hdr (t.send.resolve held) t.nin = false) :
    s.runTxns (t :: ts) held evs =
      (t.onTimeout (s.afterXfer ⟨t.chip, t.hdr, [], [], .timeout⟩)).complete (addEvent .transportTimeout evs) := by
  simp only [State.runTxns, Txn.xfer, State.busXfer_of_timeout h]

@[simp] theorem After.apply_setEng (a : After) (bs : List Byte) (s : State) (e : Engine) :
    a.apply bs (s.setEng e) = (a.apply bs s).setEng e := by cases a <;> rfl

@[simp] theorem Txn.onTimeout_setEng (t : Txn) (s : State) (e : Engine) :
    t.onTimeout (s.setEng e) = (t.onTimeout s).setEng e := by
  unfold Txn.onTimeout
  split <;> rfl

/-- No transaction looks at ENG, and the completion step writes it. -/
@[simp] theorem State.runTxns_setEng (todo : List Txn) (held : Byte) (evs : List Event) (s : State) (e : Engine) :
    (s.setEng e).runTxns todo held evs = s.runTxns todo held evs := by
  induction todo generalizing held s with
  | nil => rfl
  | cons t ts ih =>
    cases h : s.pollReady t.chip t.hdr (t.send.resolve held) t.nin with
    | false =>
      have h' : (s.setEng e).pollReady t.chip t.hdr (t.send.resolve held) t.nin = false := h
      rw [State.runTxns_of_timeout ts evs h, State.runTxns_of_timeout ts evs h']
      simp
    | true =>
      have h' : (s.setEng e).pollReady t.chip t.hdr (t.send.resolve held) t.nin = true := h
      rw [State.runTxns_of_ready ts evs h, State.runTxns_of_ready ts evs h']
      simp [ih]

@[simp] theorem State.finish_start (evs : List Event) (todo : List Txn) (s : State) :
    (s.start evs todo).finish = s.runTxns todo 0x00 evs :=
  State.runTxns_setEng todo 0x00 evs s _

@[simp] theorem State.finish_raise (e : Event) (s : State) : (s.raise e).finish = s.complete [e] := rfl

/-- A command left this value in RES and completed. -/
theorem State.complete_eq_completed (evs : List Event) (s : State) : s.complete evs = s.completed s.res evs := rfl

theorem State.setRes_complete (v : Word) (evs : List Event) (s : State) :
    (s.setRes v).complete evs = s.completed v evs := rfl

/-! ### What running transactions leaves alone -/

/-- The registers that no transaction and no completion touches. -/
structure SameOperands (s t : State) : Prop where
  params : t.params = s.params
  cmd : t.cmd = s.cmd
  opaLo : t.opaLo = s.opaLo
  opaHi : t.opaHi = s.opaHi
  lines : t.lines = s.lines
  inputs : t.inputs = s.inputs
  rdata : t.rdata = s.rdata
  readDraws : t.readDraws = s.readDraws
  init : t.status.init = s.status.init
  ovr : t.status.ovr = s.status.ovr

theorem SameOperands.refl (s : State) : SameOperands s s := ⟨rfl, rfl, rfl, rfl, rfl, rfl, rfl, rfl, rfl, rfl⟩

theorem SameOperands.trans {s t u : State} (h : SameOperands s t) (h' : SameOperands t u) : SameOperands s u :=
  ⟨h'.params.trans h.params, h'.cmd.trans h.cmd, h'.opaLo.trans h.opaLo, h'.opaHi.trans h.opaHi, h'.lines.trans h.lines,
    h'.inputs.trans h.inputs, h'.rdata.trans h.rdata, h'.readDraws.trans h.readDraws, h'.init.trans h.init, h'.ovr.trans h.ovr⟩

theorem SameOperands.complete (evs : List Event) (s : State) : SameOperands s (s.complete evs) :=
  ⟨rfl, rfl, rfl, rfl, rfl, rfl, rfl, rfl, rfl, rfl⟩

theorem SameOperands.afterXfer (e : BusEvent) (s : State) : SameOperands s (s.afterXfer e) :=
  ⟨rfl, rfl, rfl, rfl, rfl, rfl, rfl, rfl, rfl, rfl⟩

theorem SameOperands.onTimeout (t : Txn) (s : State) : SameOperands s (t.onTimeout s) := by
  unfold Txn.onTimeout
  split <;> exact ⟨rfl, rfl, rfl, rfl, rfl, rfl, rfl, rfl, rfl, rfl⟩

theorem SameOperands.apply (a : After) (bs : List Byte) (s : State) : SameOperands s (a.apply bs s) := by
  cases a <;> exact ⟨rfl, rfl, rfl, rfl, rfl, rfl, rfl, rfl, rfl, rfl⟩

theorem State.runTxns_sameOperands (todo : List Txn) (held : Byte) (evs : List Event) (s : State) :
    SameOperands s (s.runTxns todo held evs) := by
  induction todo generalizing held s with
  | nil => exact SameOperands.complete evs s
  | cons t ts ih =>
    cases h : s.pollReady t.chip t.hdr (t.send.resolve held) t.nin with
    | false =>
      rw [State.runTxns_of_timeout ts evs h]
      exact ((SameOperands.afterXfer _ s).trans (SameOperands.onTimeout _ _)).trans (SameOperands.complete _ _)
    | true =>
      rw [State.runTxns_of_ready ts evs h]
      exact ((SameOperands.afterXfer _ s).trans (SameOperands.apply _ _ _)).trans (ih _ _)

/-- Running transactions ends in the completion step: idle, deselected, BUSY = 0, DONE = 1. -/
theorem State.runTxns_ends (todo : List Txn) (held : Byte) (evs : List Event) (s : State) :
    (s.runTxns todo held evs).eng = .idle ∧ (s.runTxns todo held evs).sel = none ∧
      (s.runTxns todo held evs).status.busy = false ∧ (s.runTxns todo held evs).status.done = true := by
  induction todo generalizing held s with
  | nil => exact ⟨rfl, rfl, rfl, rfl⟩
  | cons t ts ih =>
    cases h : s.pollReady t.chip t.hdr (t.send.resolve held) t.nin with
    | false => rw [State.runTxns_of_timeout ts evs h]; exact ⟨rfl, rfl, rfl, rfl⟩
    | true => rw [State.runTxns_of_ready ts evs h]; exact ih _ _

end Sys2Proof.Machine
end

