-- ==== Sys2Proof/Laws/Codec.lean ====
section
/-! SUPPORT. The arithmetic of the codecs: the search loop, clamping, rounding, and the field functions. -/

namespace Sys2Proof.Machine

/-! ### firstFrom -/

theorem firstFrom_ge (p : Nat → Bool) (fuel e : Nat) : e ≤ firstFrom p fuel e := by
  induction fuel generalizing e with
  | zero => exact le_refl e
  | succ fuel ih =>
    unfold firstFrom
    split
    · exact le_refl e
    · exact (Nat.le_succ e).trans (ih (e + 1))

theorem firstFrom_le (p : Nat → Bool) (fuel e : Nat) : firstFrom p fuel e ≤ e + fuel := by
  induction fuel generalizing e with
  | zero => exact le_refl e
  | succ fuel ih =>
    unfold firstFrom
    split
    · omega
    · have := ih (e + 1); omega

/-- Short of its bound, the search has found p. -/
theorem firstFrom_holds (p : Nat → Bool) (fuel e : Nat) (h : firstFrom p fuel e < e + fuel) :
    p (firstFrom p fuel e) = true := by
  induction fuel generalizing e with
  | zero => simp [firstFrom] at h
  | succ fuel ih =>
    unfold firstFrom at h ⊢
    split
    · assumption
    · rename_i hp
      rw [if_neg hp] at h
      exact ih (e + 1) (by omega)

/-- Before the value the search finds, p does not hold. -/
theorem firstFrom_least (p : Nat → Bool) (fuel e k : Nat) (hk : e ≤ k) (h : k < firstFrom p fuel e) : p k = false := by
  induction fuel generalizing e with
  | zero => simp only [firstFrom] at h; omega
  | succ fuel ih =>
    unfold firstFrom at h
    split at h
    · omega
    · rename_i hp
      rcases Nat.eq_or_lt_of_le hk with rfl | hk'
      · simpa using hp
      · exact ih (e + 1) hk' h

/-! ### Clamping and saturation (00_scope.md R10, R12) -/

theorem clampq_le {q lo hi : Nat} : (clampq q lo hi).1 ≤ hi := min_le_left _ _

theorem le_clampq {q lo hi : Nat} (h : lo ≤ hi) : lo ≤ (clampq q lo hi).1 := le_min h (le_max_left _ _)

theorem clampq_of_mem {q lo hi : Nat} (h : lo ≤ q) (h' : q ≤ hi) : clampq q lo hi = (q, false) := by
  unfold clampq
  ext
  · simp only; omega
  · simp only [decide_eq_false (Nat.not_lt.mpr h), decide_eq_false (Nat.not_lt.mpr h'), Bool.or_self]

theorem sat_mem {lo hi v : Int} (h : lo ≤ hi) : lo ≤ sat lo hi v ∧ sat lo hi v ≤ hi := by
  unfold sat; omega

theorem sat_of_mem {lo hi v : Int} (h : lo ≤ v) (h' : v ≤ hi) : sat lo hi v = v := by
  unfold sat; omega

/-- A mantissa is a byte, whatever its quotient (43_link.md R180). -/
theorem mantissa_le (num den : Int) : mantissa num den ≤ 255 := by
  unfold mantissa sat; omega

/-- rhu as two inequalities: den·(2·rhu − 1) <= 2·num < den·(2·rhu + 1) (00_scope.md R11). -/
theorem rhu_spec {num den : Int} (h : 0 < den) :
    den * (2 * rhu num den - 1) ≤ 2 * num ∧ 2 * num < den * (2 * rhu num den + 1) := by
  have hd : (0 : Int) < 2 * den := by omega
  have h1 := Int.ediv_mul_le (2 * num + den) (ne_of_gt hd)
  have h2 := Int.lt_ediv_add_one_mul_self (2 * num + den) hd
  unfold rhu
  constructor <;> nlinarith

/-! ### Packed registers (41_bitfield.md R130 to R135) -/

@[simp] theorem slots_length (r : PackedReg) : (slots r).length = r.nf := by cases r <;> rfl

@[simp] theorem peel_length (v : Byte) (r : PackedReg) : (peel v r).length = r.nf := by simp [peel]

/-- A raw value is within its field's max. -/
theorem slotValue_le (v : Byte) (sl : Slot) : slotValue v sl ≤ sl.max := by
  have h := (v.extractLsb' sl.lo sl.width).isLt
  unfold slotValue Slot.max
  omega

theorem clampf_le (val : Nat) (r : PackedReg) (fid : Nat) : (clampf val r fid).1 ≤ fieldMax r fid := min_le_right _ _

theorem clampf_of_le {val : Nat} {r : PackedReg} {fid : Nat} (h : val ≤ fieldMax r fid) :
    clampf val r fid = (val, false) := by
  unfold clampf
  simp [h]

end Sys2Proof.Machine
end

