-- ==== Sys2Proof/Laws/Decode.lean ====
section
/-! SUPPORT. The fields of the words the encoder builds (30_encoding.md R71), a word put together from its fields, what the
value checks of R74 accept, and what a row's mask and pattern say of a word. -/

namespace Sys2Proof

/-! ### Fields of the four formats -/

@[simp] theorem fieldOpc_wordN (opc : Byte) : fieldOpc (wordN opc) = opc := by
  unfold fieldOpc wordN
  rw [BitVec.extractLsb'_append_eq_of_le (by decide)]
  exact BitVec.extractLsb'_eq_self

@[simp] theorem fieldOpc_wordB (opc : Byte) (c : BitVec 2) (a : Addr) (len : BitVec 6) (d : Byte) : fieldOpc (wordB opc c a len d) = opc := by
  unfold fieldOpc wordB
  rw [BitVec.extractLsb'_append_eq_of_le (by decide),
    BitVec.extractLsb'_append_eq_of_le (by decide),
    BitVec.extractLsb'_append_eq_of_le (by decide),
    BitVec.extractLsb'_append_eq_of_le (by decide),
    BitVec.extractLsb'_append_eq_of_le (by decide)]
  exact BitVec.extractLsb'_eq_self

@[simp] theorem fieldChip_wordB (opc : Byte) (c : BitVec 2) (a : Addr) (len : BitVec 6) (d : Byte) : fieldChip (wordB opc c a len d) = c := by
  unfold fieldChip wordB
  rw [BitVec.extractLsb'_append_eq_of_le (by decide),
    BitVec.extractLsb'_append_eq_of_le (by decide),
    BitVec.extractLsb'_append_eq_of_le (by decide),
    BitVec.extractLsb'_append_eq_of_le (by decide),
    BitVec.extractLsb'_append_eq_of_add_le (by decide)]
  exact BitVec.extractLsb'_eq_self

@[simp] theorem fieldAddr_wordB (opc : Byte) (c : BitVec 2) (a : Addr) (len : BitVec 6) (d : Byte) : fieldAddr (wordB opc c a len d) = a := by
  unfold fieldAddr wordB
  rw [BitVec.extractLsb'_append_eq_of_le (by decide),
    BitVec.extractLsb'_append_eq_of_le (by decide),
    BitVec.extractLsb'_append_eq_of_le (by decide),
    BitVec.extractLsb'_append_eq_of_add_le (by decide)]
  exact BitVec.extractLsb'_eq_self

@[simp] theorem fieldLen_wordB (opc : Byte) (c : BitVec 2) (a : Addr) (len : BitVec 6) (d : Byte) : fieldLen (wordB opc c a len d) = len := by
  unfold fieldLen wordB
  rw [BitVec.extractLsb'_append_eq_of_le (by decide),
    BitVec.extractLsb'_append_eq_of_add_le (by decide)]
  exact BitVec.extractLsb'_eq_self

@[simp] theorem fieldData_wordB (opc : Byte) (c : BitVec 2) (a : Addr) (len : BitVec 6) (d : Byte) : fieldData (wordB opc c a len d) = d := by
  unfold fieldData wordB
  rw [BitVec.extractLsb'_append_eq_of_add_le (by decide)]
  exact BitVec.extractLsb'_eq_self

@[simp] theorem fieldOpc_wordF (opc : Byte) (c : BitVec 2) (rid fid : BitVec 3) (val : Byte) : fieldOpc (wordF opc c rid fid val) = opc := by
  unfold fieldOpc wordF
  rw [BitVec.extractLsb'_append_eq_of_le (by decide),
    BitVec.extractLsb'_append_eq_of_le (by decide),
    BitVec.extractLsb'_append_eq_of_le (by decide),
    BitVec.extractLsb'_append_eq_of_le (by decide),
    BitVec.extractLsb'_append_eq_of_le (by decide),
    BitVec.extractLsb'_append_eq_of_le (by decide)]
  exact BitVec.extractLsb'_eq_self

@[simp] theorem fieldChip_wordF (opc : Byte) (c : BitVec 2) (rid fid : BitVec 3) (val : Byte) : fieldChip (wordF opc c rid fid val) = c := by
  unfold fieldChip wordF
  rw [BitVec.extractLsb'_append_eq_of_le (by decide),
    BitVec.extractLsb'_append_eq_of_le (by decide),
    BitVec.extractLsb'_append_eq_of_le (by decide),
    BitVec.extractLsb'_append_eq_of_le (by decide),
    BitVec.extractLsb'_append_eq_of_le (by decide),
    BitVec.extractLsb'_append_eq_of_add_le (by decide)]
  exact BitVec.extractLsb'_eq_self

@[simp] theorem fieldRid_wordF (opc : Byte) (c : BitVec 2) (rid fid : BitVec 3) (val : Byte) : fieldRid (wordF opc c rid fid val) = rid := by
  unfold fieldRid wordF
  rw [BitVec.extractLsb'_append_eq_of_le (by decide),
    BitVec.extractLsb'_append_eq_of_le (by decide),
    BitVec.extractLsb'_append_eq_of_le (by decide),
    BitVec.extractLsb'_append_eq_of_add_le (by decide)]
  exact BitVec.extractLsb'_eq_self

@[simp] theorem fieldFid_wordF (opc : Byte) (c : BitVec 2) (rid fid : BitVec 3) (val : Byte) : fieldFid (wordF opc c rid fid val) = fid := by
  unfold fieldFid wordF
  rw [BitVec.extractLsb'_append_eq_of_le (by decide),
    BitVec.extractLsb'_append_eq_of_add_le (by decide)]
  exact BitVec.extractLsb'_eq_self

@[simp] theorem fieldData_wordF (opc : Byte) (c : BitVec 2) (rid fid : BitVec 3) (val : Byte) : fieldData (wordF opc c rid fid val) = val := by
  unfold fieldData wordF
  rw [BitVec.extractLsb'_append_eq_of_add_le (by decide)]
  exact BitVec.extractLsb'_eq_self

@[simp] theorem fieldOpc_wordQ (opc : Byte) (c : BitVec 2) : fieldOpc (wordQ opc c) = opc := by
  unfold fieldOpc wordQ
  rw [BitVec.extractLsb'_append_eq_of_le (by decide),
    BitVec.extractLsb'_append_eq_of_le (by decide)]
  exact BitVec.extractLsb'_eq_self

@[simp] theorem fieldChip_wordQ (opc : Byte) (c : BitVec 2) : fieldChip (wordQ opc c) = c := by
  unfold fieldChip wordQ
  rw [BitVec.extractLsb'_append_eq_of_le (by decide),
    BitVec.extractLsb'_append_eq_of_add_le (by decide)]
  exact BitVec.extractLsb'_eq_self

/-! ### A word put together from its fields -/

/-- A format N word is its OPC and its low 24 bits. -/
theorem word_eq_N (w : Word) : fieldOpc w ++ w.extractLsb' 0 24 = w := by
  unfold fieldOpc
  rw [BitVec.extractLsb'_append_extractLsb'_eq_extractLsb' (by decide)]
  exact BitVec.extractLsb'_eq_self

/-- A word is the concatenation of its format B fields. -/
theorem word_eq_B (w : Word) :
    fieldOpc w ++ fieldChip w ++ fieldAddr w ++ w.extractLsb' 14 2 ++ fieldLen w ++ fieldData w = w := by
  unfold fieldOpc fieldChip fieldAddr fieldLen fieldData
  rw [BitVec.extractLsb'_append_extractLsb'_eq_extractLsb' (by decide),
    BitVec.extractLsb'_append_extractLsb'_eq_extractLsb' (by decide),
    BitVec.extractLsb'_append_extractLsb'_eq_extractLsb' (by decide),
    BitVec.extractLsb'_append_extractLsb'_eq_extractLsb' (by decide),
    BitVec.extractLsb'_append_extractLsb'_eq_extractLsb' (by decide)]
  exact BitVec.extractLsb'_eq_self

/-- A word is the concatenation of its format F fields. -/
theorem word_eq_F (w : Word) :
    fieldOpc w ++ fieldChip w ++ w.extractLsb' 19 3 ++ fieldRid w ++ w.extractLsb' 11 5 ++ fieldFid w ++ fieldData w = w := by
  unfold fieldOpc fieldChip fieldRid fieldFid fieldData
  rw [BitVec.extractLsb'_append_extractLsb'_eq_extractLsb' (by decide),
    BitVec.extractLsb'_append_extractLsb'_eq_extractLsb' (by decide),
    BitVec.extractLsb'_append_extractLsb'_eq_extractLsb' (by decide),
    BitVec.extractLsb'_append_extractLsb'_eq_extractLsb' (by decide),
    BitVec.extractLsb'_append_extractLsb'_eq_extractLsb' (by decide),
    BitVec.extractLsb'_append_extractLsb'_eq_extractLsb' (by decide)]
  exact BitVec.extractLsb'_eq_self

/-- A word is the concatenation of its format Q fields. -/
theorem word_eq_Q (w : Word) : fieldOpc w ++ fieldChip w ++ w.extractLsb' 0 22 = w := by
  unfold fieldOpc fieldChip
  rw [BitVec.extractLsb'_append_extractLsb'_eq_extractLsb' (by decide),
    BitVec.extractLsb'_append_extractLsb'_eq_extractLsb' (by decide)]
  exact BitVec.extractLsb'_eq_self

/-! ### The value checks of R74 step 3 -/

@[simp] theorem chipOfBits_chipBits (c : Chip) : chipOfBits (chipBits c) = .ok c := by
  revert c; decide

theorem chipBits_of_chipOfBits {v : BitVec 2} {c : Chip} (h : chipOfBits v = .ok c) : chipBits c = v := by
  revert v c; decide

@[simp] theorem regOfBits_rid (r : PackedReg) : regOfBits r.rid = .ok r := by cases r <;> rfl

theorem rid_of_regOfBits {v : BitVec 3} {r : PackedReg} (h : regOfBits v = .ok r) : r.rid = v := by
  cases r <;> revert v <;> decide

theorem nf_le (r : PackedReg) : r.nf ≤ 4 := by cases r <;> decide

theorem fidOfBits_ofNat {r : PackedReg} {fid : Nat} (h : fieldOk r fid = true) :
    fidOfBits r (BitVec.ofNat 3 fid) = .ok fid := by
  have h1 : fid < r.nf := by simpa [fieldOk] using h
  have h2 := nf_le r
  have h3 : (BitVec.ofNat 3 fid).toNat = fid := by
    rw [BitVec.toNat_ofNat]; exact Nat.mod_eq_of_lt (by omega)
  simp only [fidOfBits, h3, h, if_true]

theorem of_fidOfBits {r : PackedReg} {v : BitVec 3} {fid : Nat} (h : fidOfBits r v = .ok fid) :
    fieldOk r fid = true ∧ BitVec.ofNat 3 fid = v := by
  unfold fidOfBits at h
  split at h
  · rename_i hk
    cases h
    exact ⟨hk, by simp⟩
  · cases h

/-- LEN of a burst length the encoding admits, and back. -/
theorem lenBits_toNat {n : Nat} (h : burstLenOk n = true) : (lenBits n).toNat + 1 = n := by
  simp only [burstLenOk, Config.maxBurst, Bool.and_eq_true, decide_eq_true_eq] at h
  unfold lenBits
  rw [BitVec.toNat_ofNat, Nat.mod_eq_of_lt (by omega)]
  omega

theorem burstLenOk_burstLen (w : Word) : burstLenOk (burstLen w) = true := by
  have := (fieldLen w).isLt
  have h : burstLen w = (fieldLen w).toNat + 1 := rfl
  have hm : Config.maxBurst = 64 := rfl
  simp only [burstLenOk, Bool.and_eq_true, decide_eq_true_eq]
  omega

@[simp] theorem lenBits_burstLen (w : Word) : lenBits (burstLen w) = fieldLen w := by
  simp [lenBits, burstLen]

/-! ### The opcode map (R73) -/

/-- The OPC values of the rows differ, and each row is found by its own. -/
@[simp] theorem Opcode.ofByte_code (o : Opcode) : Opcode.ofByte o.code = some o := by cases o <;> rfl

theorem Opcode.code_of_ofByte {b : Byte} {o : Opcode} (h : Opcode.ofByte b = some o) : o.code = b := by
  have := List.find?_some h
  simpa using this

/-- Every row's mask covers the OPC field, and its pattern has the row's OPC there. -/
theorem Opcode.mask_opc (o : Opcode) : fieldOpc o.mask = 0xFF ∧ fieldOpc o.pattern = o.code := by cases o <;> decide

/-- A bit slice of a word that matches a row: where the mask is all ones, the word has the pattern's bits. -/
theorem slice_of_match {w mask pattern : Word} (h : w &&& mask = pattern) (start len : Nat)
    (hm : mask.extractLsb' start len = BitVec.allOnes len) : w.extractLsb' start len = pattern.extractLsb' start len := by
  rw [← h, BitVec.extractLsb'_and, hm, BitVec.and_allOnes]

end Sys2Proof
end

