-- ==== Sys2Proof/Laws/Step.lean ====
section
/-! SUPPORT. What a command and a step can do, said once: exec is the command's plan run to its completion and always answers a
next state; the cases of a step; the effect of each host write. -/

namespace Sys2Proof.Machine

/-- A command's meaning is its plan, run to its completion. -/
theorem exec_eq_plan (i : Instr) (s : State) : exec i s = .next (plan i s).finish := by cases i <;> rfl

/-- Every command answers a next state. -/
theorem exec_next (i : Instr) (s : State) : ∃ t, exec i s = .next t := ⟨_, exec_eq_plan i s⟩

/-- What a command's plan does: it raises BusNotInitialized, or it starts transactions from a state that differs from the one
before at most in RES and, for BUS_INIT, in the bus set-up. -/
theorem plan_cases (i : Instr) (s : State) :
    (i.usesBus = true ∧ s.status.init = false ∧ plan i s = s.raise .busNotInitialized) ∨
    (∃ evs, i.usesBus = false ∧ i ≠ .busInit ∧ ∃ v, plan i s = (s.setRes v).start evs []) ∨
    (i = .busInit ∧ plan i s = s.configureBus.start [] []) ∨
    (∃ evs todo v, i.usesBus = true ∧ s.status.init = true ∧ todo ≠ [] ∧ todo.length ≤ 3 ∧
      (∀ t ∈ todo, some t.chip = i.chip) ∧ plan i s = (s.setRes v).start evs todo) := by
  cases hi : s.status.init
  · cases i
    case nop => exact .inr (.inl ⟨[], rfl, by simp, s.res, rfl⟩)
    case busInit => exact .inr (.inr (.inl ⟨rfl, rfl⟩))
    case fdec => exact .inr (.inl ⟨_, rfl, by simp, _, rfl⟩)
    case fenc => exact .inr (.inl ⟨_, rfl, by simp, _, rfl⟩)
    case freqEnc => exact .inr (.inl ⟨_, rfl, by simp, _, rfl⟩)
    case drateEnc => exact .inr (.inl ⟨_, rfl, by simp, _, rfl⟩)
    case devEnc => exact .inr (.inl ⟨_, rfl, by simp, _, rfl⟩)
    case bwEnc => exact .inr (.inl ⟨_, rfl, by simp, _, rfl⟩)
    case chspEnc => exact .inr (.inl ⟨_, rfl, by simp, _, rfl⟩)
    all_goals exact .inl ⟨rfl, rfl, State.onBus_of_not_init _ hi⟩
  · cases i
    case nop => exact .inr (.inl ⟨[], rfl, by simp, s.res, rfl⟩)
    case busInit => exact .inr (.inr (.inl ⟨rfl, rfl⟩))
    case fdec => exact .inr (.inl ⟨_, rfl, by simp, _, rfl⟩)
    case fenc => exact .inr (.inl ⟨_, rfl, by simp, _, rfl⟩)
    case freqEnc => exact .inr (.inl ⟨_, rfl, by simp, _, rfl⟩)
    case drateEnc => exact .inr (.inl ⟨_, rfl, by simp, _, rfl⟩)
    case devEnc => exact .inr (.inl ⟨_, rfl, by simp, _, rfl⟩)
    case bwEnc => exact .inr (.inl ⟨_, rfl, by simp, _, rfl⟩)
    case chspEnc => exact .inr (.inl ⟨_, rfl, by simp, _, rfl⟩)
    case setFreq c =>
      exact .inr (.inr (.inr ⟨_, _, _, rfl, rfl, List.cons_ne_nil _ _, by simp, by simp [Instr.chip, liveWrite],
        State.onBus_of_init _ hi⟩))
    case setDrate c =>
      exact .inr (.inr (.inr ⟨_, _, _, rfl, rfl, List.cons_ne_nil _ _, by simp,
        by simp [Instr.chip, liveWrite, liveRead, liveWriteHeld], State.onBus_of_init _ hi⟩))
    case setDev c =>
      exact .inr (.inr (.inr ⟨_, _, _, rfl, rfl, List.cons_ne_nil _ _, by simp, by simp [Instr.chip, liveWrite],
        State.onBus_of_init _ hi⟩))
    case setBw c =>
      exact .inr (.inr (.inr ⟨_, _, _, rfl, rfl, List.cons_ne_nil _ _, by simp,
        by simp [Instr.chip, liveRead, liveWriteHeld], State.onBus_of_init _ hi⟩))
    case setChsp c =>
      exact .inr (.inr (.inr ⟨_, _, _, rfl, rfl, List.cons_ne_nil _ _, by simp,
        by simp [Instr.chip, liveWrite, liveRead, liveWriteHeld], State.onBus_of_init _ hi⟩))
    all_goals
      exact .inr (.inr (.inr ⟨_, _, s.res, rfl, rfl, List.cons_ne_nil _ _, by simp,
        by simp [Instr.chip, liveReadOrZero, liveWriteHeld], State.onBus_of_init _ hi⟩))

/-- What a step can do: the engine runs, the host reads, writes or polls, reset is asserted, or the engine moves by a phase. -/
theorem step_cases {s t : State} (h : step s = .next t) :
    (s.inputs = [] ∧ s.runEngine = .next t) ∨
    (∃ o n rest, s.inputs = .read o n :: rest ∧ hostRead o n (s.next rest) = .next t) ∨
    (∃ o n v rest, s.inputs = .write o n v :: rest ∧ hostWrite o n v (s.next rest) = .next t) ∨
    (∃ rest, s.inputs = .wait :: rest ∧ s.status.busy = true ∧ s.runEngine = .next t) ∨
    (∃ rest, s.inputs = .wait :: rest ∧ s.status.busy = false ∧ t = (s.next rest).returned s.status.word) ∨
    (∃ rest, s.inputs = .reset :: rest ∧ t = (s.next rest).resetRce) ∨
    (∃ rest, s.inputs = .phase :: rest ∧ t = (s.next rest).phase) := by
  unfold step at h
  split at h
  · exact .inl ⟨by assumption, h⟩
  · exact .inr (.inl ⟨_, _, _, by assumption, h⟩)
  · exact .inr (.inr (.inl ⟨_, _, _, _, by assumption, h⟩))
  · rename_i rest hin
    unfold State.poll at h
    split at h
    · exact .inr (.inr (.inr (.inl ⟨rest, hin, by assumption, h⟩)))
    · rename_i hb
      refine .inr (.inr (.inr (.inr (.inl ⟨rest, hin, by simpa using hb, ?_⟩))))
      cases h; rfl
  · rename_i rest hin
    cases h
    exact .inr (.inr (.inr (.inr (.inr (.inl ⟨rest, hin, rfl⟩)))))
  · rename_i rest hin
    cases h
    exact .inr (.inr (.inr (.inr (.inr (.inr ⟨rest, hin, rfl⟩)))))

/-- What running the engine can do: nothing when idle, report an illegal word, run the decoded command, or finish one. -/
theorem runEngine_cases {s t : State} (h : s.runEngine = .next t) :
    (s.eng = .idle ∧ t = s) ∨
    (s.eng = .accepted ∧ (∃ e, decode s.cmd = .error e) ∧ t = s.complete [.illegalCommand]) ∨
    (∃ i, s.eng = .accepted ∧ decode s.cmd = .ok i ∧ t = (plan i s).finish) ∨
    (∃ f, s.eng = .running f ∧ t = s.runTxns f.todo f.held f.events) := by
  unfold State.runEngine at h
  split at h
  · cases h; exact .inl ⟨by assumption, rfl⟩
  · split at h
    · cases h; exact .inr (.inl ⟨by assumption, ⟨_, by assumption⟩, rfl⟩)
    · rename_i i hd
      rw [exec_eq_plan] at h
      cases h
      exact .inr (.inr (.inl ⟨i, by assumption, hd, rfl⟩))
  · rename_i f hf
    cases h
    refine .inr (.inr (.inr ⟨f, hf, ?_⟩))
    unfold State.finish
    rw [hf]

/-- A read returns a value and changes nothing else (20_memory.md R59). -/
theorem hostRead_cases {o n : Nat} {s t : State} (h : hostRead o n s = .next t) :
    ∃ r, hostReg o n = some r ∧ t = s.returned (s.regValue o r) := by
  unfold hostRead at h
  split at h
  · cases h
  · cases h; exact ⟨_, by assumption, rfl⟩

/-- A write takes effect on one register. -/
theorem hostWrite_cases {o n : Nat} {v : Word} {s t : State} (h : hostWrite o n v s = .next t) :
    ∃ r, hostReg o n = some r ∧ t = s.writeReg v r := by
  unfold hostWrite at h
  split at h
  · cases h
  · cases h; exact ⟨_, by assumption, rfl⟩

/-- A BUF word of the map is one of 16. -/
theorem hostReg_buf {o n k : Nat} (h : hostReg o n = some (.buf k)) : k < 16 ∧ o = 0x40 + 4 * k ∧ n = 4 := by
  unfold hostReg at h
  split at h
  · rename_i hc
    split_ifs at h <;> simp at h
    omega
  · cases h

end Sys2Proof.Machine
end

