-- ==== Sys2Proof/Laws/Engine.lean ====
section
/-! SUPPORT. What the engine can do, said once: the transactions a command starts, what running them leaves alone, the cases of
a phase; and what a host write can do. -/

namespace Sys2Proof.Machine

/-! ### STATUS bits -/

/-- Every bit of the STATUS word (10_state.md R24, R34). -/
theorem Status.word_getLsbD (st : Status) {k : Nat} (hk : k < 32) : st.word.getLsbD k =
    ((k = 0 && st.busy) || (k = 1 && st.done) || (k = 2 && st.timeout) || (k = 3 && st.clamp) || (k = 4 && st.illegal) ||
      (k = 5 && st.ovr) || (k = 6 && st.noinit) || (k = 7 && st.init) ||
      (decide (8 ≤ k ∧ k < 12) && st.cause.getLsbD (k - 8))) := by
  unfold Status.word bitAt
  interval_cases k <;> simp

/-! ### The transactions a command starts -/

/-- A command's plan has started: ENG holds its transactions, and finishing runs them. -/
theorem plan_eng (i : Instr) (s : State) : ∃ todo evs,
    (plan i s).eng = .running ⟨todo, 0, evs⟩ ∧ (plan i s).finish = (plan i s).runTxns todo 0 evs := by
  rcases plan_cases i s with ⟨-, -, h⟩ | ⟨evs, -, -, v, h⟩ | ⟨rfl, h⟩ | ⟨evs, todo, v, -, -, -, -, -, h⟩
  · exact ⟨[], _, by rw [h]; rfl, by rw [h]; rfl⟩
  · exact ⟨_, _, by rw [h]; rfl, by rw [h]; rfl⟩
  · exact ⟨_, _, by rw [h]; rfl, by rw [h]; rfl⟩
  · exact ⟨todo, evs, by rw [h]; rfl, by rw [h]; rfl⟩

/-- A plan leaves STATUS alone, but for INIT in the first BUS_INIT. -/
theorem plan_status (i : Instr) (s : State) : (plan i s).status = s.status ∨
    (i = .busInit ∧ s.status.init = false ∧ (plan i s).status = { s.status with init := true }) := by
  rcases plan_cases i s with ⟨-, -, h⟩ | ⟨evs, -, -, v, h⟩ | ⟨rfl, h⟩ | ⟨_, _, _, -, -, -, -, -, h⟩
  · left; rw [h]; rfl
  · left; rw [h]; rfl
  · cases hi : s.status.init
    · right; refine ⟨rfl, rfl, ?_⟩; rw [h]; simp [State.configureBus, hi]
    · left; rw [h]; simp [State.configureBus, hi]
  · left; rw [h]; rfl

/-- A well-formed command starts at most three transactions of at most 64 data bytes, and any only with INIT = 1
(70_reset_and_hazards.md R259). -/
theorem plan_flight {i : Instr} {s : State} {f : Flight} (hw : i.wf = true) (h : (plan i s).eng = .running f) :
    f.todo.length ≤ 3 ∧ (∀ t ∈ f.todo, t.dataBytes ≤ Config.maxBurst) ∧ (f.todo ≠ [] → s.status.init = true) := by
  rcases plan_cases i s with ⟨-, -, h'⟩ | ⟨evs, -, -, v, h'⟩ | ⟨rfl, h'⟩ | ⟨evs, todo, v, hb, hi, -, hl, -, h'⟩
  · rw [h'] at h; simp [State.raise] at h; subst h; simp
  · rw [h'] at h; simp at h; subst h; simp
  · rw [h'] at h; simp at h; subst h; simp
  · have h0 := h
    rw [h'] at h; simp at h; subst h
    refine ⟨hl, ?_, fun _ => hi⟩
    cases i
    case nop | fdec | fenc | freqEnc | drateEnc | devEnc | bwEnc | chspEnc | busInit => simp [Instr.usesBus] at hb
    all_goals
      simp only [plan, planWrReg, planRdReg, planWrBurst, planRdBurst, planStrobe, planRdStatus, planDecomp, planFget,
        planFset, planSetFreq, planSetDrate, planSetDev, planSetBw, planSetChsp, State.onBus_of_init _ hi, State.start_eng,
        Engine.running.injEq, Flight.mk.injEq] at h0
      obtain ⟨h0, -⟩ := h0
      rw [← h0]
      simp [Txn.dataBytes, Config.maxBurst, liveReadOrZero, liveRead, liveWrite, liveWriteHeld]
    all_goals exact (by simpa [Instr.wf, burstLenOk, Config.maxBurst] using hw : 1 ≤ _ ∧ _ ≤ 64).2

/-! ### Running transactions -/

@[simp] theorem Txn.onTimeout_status (t : Txn) (s : State) : (t.onTimeout s).status = s.status := by
  unfold Txn.onTimeout; split <;> rfl
@[simp] theorem Txn.onTimeout_sel (t : Txn) (s : State) : (t.onTimeout s).sel = s.sel := by
  unfold Txn.onTimeout; split <;> rfl
@[simp] theorem Txn.onTimeout_history (t : Txn) (s : State) : (t.onTimeout s).history = s.history := by
  unfold Txn.onTimeout; split <;> rfl
@[simp] theorem Txn.onTimeout_buf (t : Txn) (s : State) : (t.onTimeout s).buf = s.buf := by
  unfold Txn.onTimeout; split <;> rfl
@[simp] theorem After.apply_status (a : After) (bs : List Byte) (s : State) : (a.apply bs s).status = s.status := by
  cases a <;> rfl
@[simp] theorem After.apply_sel (a : After) (bs : List Byte) (s : State) : (a.apply bs s).sel = s.sel := by
  cases a <;> rfl
@[simp] theorem After.apply_history (a : After) (bs : List Byte) (s : State) : (a.apply bs s).history = s.history := by
  cases a <;> rfl

/-- A transaction of at most 64 data bytes is recorded as such. -/
theorem Txn.eventOk (t : Txn) (held : Byte) (s : State) (h : t.dataBytes ≤ Config.maxBurst) :
    BusEventOk ⟨t.chip, t.hdr, t.send.resolve held, s.received t.chip t.hdr (t.send.resolve held) t.nin, .ok⟩ := by
  refine ⟨?_, by simp⟩
  simp only [State.received_length]
  unfold Txn.dataBytes at h
  cases hs : t.send <;> simp_all [Send.resolve]

/-- Running transactions adds at most one event for each, of its chip, and only the last can be a timeout (40_bus.md R105). -/
theorem State.runTxns_history (todo : List Txn) (held : Byte) (evs : List Event) (s : State) :
    ∃ es : List BusEvent, (s.runTxns todo held evs).history = s.history ++ es ∧ es.length ≤ todo.length ∧
      (∀ e ∈ es, ∃ t ∈ todo, e.chip = t.chip) ∧ (∀ e ∈ es.dropLast, e.outcome = .ok) := by
  induction todo generalizing held s with
  | nil => exact ⟨[], by simp [State.complete], by simp, by simp, by simp⟩
  | cons t ts ih =>
    cases h : s.pollReady t.chip t.hdr (t.send.resolve held) t.nin with
    | false =>
      rw [State.runTxns_of_timeout ts evs h]
      exact ⟨[⟨t.chip, t.hdr, [], [], .timeout⟩], by simp [State.complete, State.afterXfer], by simp, by simp, by simp⟩
    | true =>
      rw [State.runTxns_of_ready ts evs h]
      obtain ⟨es, h1, h2, h3, h4⟩ := ih _ _
      refine ⟨_ :: es, by rw [h1, After.apply_history]; simp [State.afterXfer]; rfl, by simp; omega, ?_, ?_⟩
      · intro e he
        rcases List.mem_cons.1 he with rfl | he
        · exact ⟨t, by simp, rfl⟩
        · obtain ⟨t', ht, h⟩ := h3 e he; exact ⟨t', by simp [ht], h⟩
      · intro e he
        cases es with
        | nil => simp at he
        | cons x xs =>
          simp only [List.dropLast_cons_cons, List.mem_cons] at he
          rcases he with rfl | he
          · rfl
          · exact h4 e (by simpa using he)

/-- Running transactions clears no sticky bit. -/
theorem State.runTxns_sticky (todo : List Txn) (held : Byte) (evs : List Event) (s : State) :
    (s.status.timeout = true → (s.runTxns todo held evs).status.timeout = true) ∧
    (s.status.clamp = true → (s.runTxns todo held evs).status.clamp = true) ∧
    (s.status.illegal = true → (s.runTxns todo held evs).status.illegal = true) ∧
    (s.status.noinit = true → (s.runTxns todo held evs).status.noinit = true) := by
  induction todo generalizing held s with
  | nil => simp [State.complete, Status.complete]; tauto
  | cons t ts ih =>
    cases h : s.pollReady t.chip t.hdr (t.send.resolve held) t.nin with
    | false =>
      rw [State.runTxns_of_timeout ts evs h]
      simp [State.complete, Status.complete, State.afterXfer]
      tauto
    | true =>
      rw [State.runTxns_of_ready ts evs h]
      have := ih (t.after.hold (s.received t.chip t.hdr (t.send.resolve held) t.nin) held)
        (t.after.apply (s.received t.chip t.hdr (t.send.resolve held) t.nin)
          (s.afterXfer ⟨t.chip, t.hdr, t.send.resolve held, s.received t.chip t.hdr (t.send.resolve held) t.nin, .ok⟩))
      rw [After.apply_status] at this
      exact this

/-- Writes and strobes leave RES alone. -/
theorem State.runTxns_res (todo : List Txn) (held : Byte) (evs : List Event) (s : State)
    (h : ∀ t ∈ todo, t.after = .nothing ∧ t.zeroResOnTimeout = false) : (s.runTxns todo held evs).res = s.res := by
  induction todo generalizing held s with
  | nil => rfl
  | cons t ts ih =>
    obtain ⟨h1, h2⟩ := h t (by simp)
    cases hp : s.pollReady t.chip t.hdr (t.send.resolve held) t.nin with
    | false =>
      rw [State.runTxns_of_timeout ts evs hp]
      simp [State.complete, Txn.onTimeout, h2, State.afterXfer]
    | true =>
      rw [State.runTxns_of_ready ts evs hp, ih _ _ (fun t ht => h t (by simp [ht])), h1]; rfl

/-- Only a burst read writes BUF. -/
theorem State.runTxns_buf (todo : List Txn) (held : Byte) (evs : List Event) (s : State)
    (h : ∀ t ∈ todo, t.after ≠ .burstToBuf) : (s.runTxns todo held evs).buf = s.buf := by
  induction todo generalizing held s with
  | nil => rfl
  | cons t ts ih =>
    have h1 := h t (by simp)
    cases hp : s.pollReady t.chip t.hdr (t.send.resolve held) t.nin with
    | false =>
      rw [State.runTxns_of_timeout ts evs hp]
      simp [State.complete, State.afterXfer]
    | true =>
      rw [State.runTxns_of_ready ts evs hp, ih _ _ (fun t ht => h t (by simp [ht]))]
      cases ha : t.after <;> simp_all [After.apply, State.afterXfer]

/-! ### The phases of the engine -/

/-- What the first phase of a command can do: report an illegal word, start the command's transactions, or complete a command
that has none. -/
theorem begin_cases (s : State) :
    (∃ e, decode s.cmd = .error e ∧ s.begin = s.complete [.illegalCommand]) ∨
    (∃ i, decode s.cmd = .ok i ∧
      ((∃ evs t ts, (plan i s).eng = .running ⟨t :: ts, 0, evs⟩ ∧ s.begin = plan i s ∧ (plan i s).status = s.status) ∨
        ∃ evs, (plan i s).eng = .running ⟨[], 0, evs⟩ ∧ s.begin = (plan i s).complete evs)) := by
  unfold State.begin
  split
  · left; exact ⟨_, by assumption, rfl⟩
  · rename_i i hd
    right
    refine ⟨i, hd, ?_⟩
    obtain ⟨todo, evs, h, -⟩ := plan_eng i s
    cases todo with
    | nil => right; exact ⟨evs, h, by simp [State.settle, h]⟩
    | cons t ts =>
      left
      refine ⟨evs, t, ts, h, by simp [State.settle, h], ?_⟩
      rcases plan_status i s with h' | ⟨rfl, -, -⟩
      · exact h'
      · simp [plan, planBusInit] at h

/-- The cases of a phase. -/
theorem phase_cases (s : State) :
    (s.eng = .idle ∧ s.phase = s) ∨
    (s.eng = .accepted ∧ s.phase = s.begin) ∨
    (∃ f, s.eng = .running f ∧ f.todo = [] ∧ s.phase = s.complete f.events) ∨
    (∃ f t ts, s.eng = .running f ∧ f.todo = t :: ts ∧ s.sel = none ∧ s.phase = s.select t.chip) ∨
    (∃ f t ts c, s.eng = .running f ∧ f.todo = t :: ts ∧ s.sel = some c ∧ s.phase = s.transferPhase t ts f) := by
  unfold State.phase
  split
  · exact .inl ⟨by assumption, rfl⟩
  · exact .inr (.inl ⟨by assumption, rfl⟩)
  · rename_i f hf
    split
    · exact .inr (.inr (.inl ⟨f, hf, by assumption, rfl⟩))
    · rename_i t ts ht
      split
      · exact .inr (.inr (.inr (.inl ⟨f, t, ts, hf, ht, by assumption, rfl⟩)))
      · exact .inr (.inr (.inr (.inr ⟨f, t, ts, _, hf, ht, by assumption, rfl⟩)))

/-- A transaction's phase: what it leaves alone, and that the command is still in progress after it. -/
theorem transferPhase_cases (t : Txn) (ts : List Txn) (f : Flight) (s : State) : ∃ (g : State) (e : Engine),
    s.transferPhase t ts f = g.setEng e ∧ e ≠ .idle ∧ g.status = s.status ∧ SameOperands s g ∧ g.sel = none := by
  unfold State.transferPhase
  cases h : s.pollReady t.chip t.hdr (t.send.resolve f.held) t.nin with
  | false =>
    rw [State.transfer_of_timeout h]
    exact ⟨_, _, rfl, by simp, by simp [State.afterXfer],
      (SameOperands.afterXfer _ s).trans (SameOperands.onTimeout _ _), by simp [State.afterXfer]⟩
  | true =>
    rw [State.transfer_of_ready h]
    exact ⟨_, _, rfl, by simp, by simp [State.afterXfer],
      (SameOperands.afterXfer _ s).trans (SameOperands.apply _ _ _), by simp [State.afterXfer]⟩

/-! ### The host interface -/

/-- The accesses the register map defines (20_memory.md R51). -/
theorem hostReg_isSome (o n : Nat) : (hostReg o n).isSome = true ↔ n = 4 ∧ o % 4 = 0 ∧ o < 0x80 := by
  unfold hostReg
  split <;> simp_all

/-- BUF word k is at offset 0x40 + 4k (10_state.md R35). -/
theorem hostReg_of_buf {k : Nat} (hk : k < 16) : hostReg (0x40 + 4 * k) 4 = some (.buf k) := by
  unfold hostReg
  rw [if_pos (by omega), if_neg (by omega), if_neg (by omega), if_neg (by omega), if_neg (by omega), if_neg (by omega),
    if_neg (by omega)]
  congr 2
  omega

/-- A word is its four lanes. -/
theorem wordOfLanes_lane (v : Word) : wordOfLanes (lane v 0) (lane v 1) (lane v 2) (lane v 3) = v := by
  unfold wordOfLanes lane
  rw [BitVec.extractLsb'_append_extractLsb'_eq_extractLsb' (by decide),
    BitVec.extractLsb'_append_extractLsb'_eq_extractLsb' (by decide),
    BitVec.extractLsb'_append_extractLsb'_eq_extractLsb' (by decide)]
  exact BitVec.extractLsb'_eq_self

end Sys2Proof.Machine
end

