-- ==== Sys2Proof/Laws/PerInstr.lean ====
section
/-! SUPPORT. A statement about every command as syntax, one lemma per constructor: the word the encoder builds matches its
own row of the opcode map (30_encoding.md R73): `(word AND mask) = match`. -/

namespace Sys2Proof.Laws.MatchesRow

/-- The word of a command matches the row the command belongs to. -/
def Statement (i : Instr) : Prop := encode i &&& i.opcode.mask = i.opcode.pattern

/-- A format B word under a mask, field by field. -/
theorem wordB_and (opc mo : Byte) (c mc : BitVec 2) (a ma : Addr) (mr : BitVec 2) (len ml : BitVec 6) (d md : Byte) :
    wordB opc c a len d &&& (mo ++ mc ++ ma ++ mr ++ ml ++ md : BitVec 32) =
      wordB (opc &&& mo) (c &&& mc) (a &&& ma) (len &&& ml) (d &&& md) := by
  unfold wordB
  rw [BitVec.and_append, BitVec.and_append, BitVec.and_append, BitVec.and_append, BitVec.and_append, BitVec.zero_and]

/-- A format F word under a mask, field by field. -/
theorem wordF_and (opc mo : Byte) (c mc : BitVec 2) (m3 rid mrid : BitVec 3) (m5 : BitVec 5) (fid mfid : BitVec 3)
    (val mval : Byte) :
    wordF opc c rid fid val &&& (mo ++ mc ++ m3 ++ mrid ++ m5 ++ mfid ++ mval : BitVec 32) =
      wordF (opc &&& mo) (c &&& mc) (rid &&& mrid) (fid &&& mfid) (val &&& mval) := by
  unfold wordF
  rw [BitVec.and_append, BitVec.and_append, BitVec.and_append, BitVec.and_append, BitVec.and_append, BitVec.and_append,
    BitVec.zero_and, BitVec.zero_and]

theorem nop : Statement .nop := by
  unfold Statement; decide

theorem busInit : Statement .busInit := by
  unfold Statement; decide

theorem wrReg (c : Chip) (a : Addr) (d : Byte) : Statement (.wrReg c a d) := by
  refine (wordB_and _ 0xff _ 0 _ 0 3 _ 0x3f _ 0x0).trans ?_
  simp [BitVec.and_zero, wordB, Instr.opcode, Opcode.pattern]

theorem rdReg (c : Chip) (a : Addr) : Statement (.rdReg c a) := by
  refine (wordB_and _ 0xff _ 0 _ 0 3 _ 0x3f _ 0xff).trans ?_
  simp [BitVec.and_zero, wordB, Instr.opcode, Opcode.pattern]

theorem wrBurst (c : Chip) (a : Addr) (n : Nat) : Statement (.wrBurst c a n) := by
  refine (wordB_and _ 0xff _ 0 _ 0 3 _ 0x0 _ 0xff).trans ?_
  simp [BitVec.and_zero, wordB, Instr.opcode, Opcode.pattern]

theorem rdBurst (c : Chip) (a : Addr) (n : Nat) : Statement (.rdBurst c a n) := by
  refine (wordB_and _ 0xff _ 0 _ 0 3 _ 0x0 _ 0xff).trans ?_
  simp [BitVec.and_zero, wordB, Instr.opcode, Opcode.pattern]

theorem strobe (c : Chip) (a : Addr) : Statement (.strobe c a) := by
  refine (wordB_and _ 0xff _ 0 _ 0 3 _ 0x3f _ 0xff).trans ?_
  simp [BitVec.and_zero, wordB, Instr.opcode, Opcode.pattern]

theorem rdStatus (c : Chip) (a : Addr) : Statement (.rdStatus c a) := by
  refine (wordB_and _ 0xff _ 0 _ 0 3 _ 0x3f _ 0xff).trans ?_
  simp [BitVec.and_zero, wordB, Instr.opcode, Opcode.pattern]

theorem fdec (r : PackedReg) (d : Byte) : Statement (.fdec r d) := by
  refine (wordF_and _ 0xff _ 3 7 _ 0 31 _ 7 _ 0x0).trans ?_
  simp [BitVec.and_zero, wordF, Instr.opcode, Opcode.pattern]

theorem fenc (r : PackedReg) : Statement (.fenc r) := by
  refine (wordF_and _ 0xff _ 3 7 _ 0 31 _ 7 _ 0xff).trans ?_
  simp [BitVec.and_zero, wordF, Instr.opcode, Opcode.pattern]

theorem decomp (c : Chip) (r : PackedReg) : Statement (.decomp c r) := by
  refine (wordF_and _ 0xff _ 0 7 _ 0 31 _ 7 _ 0xff).trans ?_
  simp [BitVec.and_zero, wordF, Instr.opcode, Opcode.pattern]

theorem fget (c : Chip) (r : PackedReg) (fid : Nat) : Statement (.fget c r fid) := by
  refine (wordF_and _ 0xff _ 0 7 _ 0 31 _ 0 _ 0xff).trans ?_
  simp [BitVec.and_zero, wordF, Instr.opcode, Opcode.pattern]

theorem fset (c : Chip) (r : PackedReg) (fid : Nat) (val : Byte) : Statement (.fset c r fid val) := by
  refine (wordF_and _ 0xff _ 0 7 _ 0 31 _ 0 _ 0x0).trans ?_
  simp [BitVec.and_zero, wordF, Instr.opcode, Opcode.pattern]

theorem freqEnc : Statement .freqEnc := by
  unfold Statement; decide

theorem setFreq (c : Chip) : Statement (.setFreq c) := by
  unfold Statement; revert c; decide

theorem drateEnc : Statement .drateEnc := by
  unfold Statement; decide

theorem setDrate (c : Chip) : Statement (.setDrate c) := by
  unfold Statement; revert c; decide

theorem devEnc : Statement .devEnc := by
  unfold Statement; decide

theorem setDev (c : Chip) : Statement (.setDev c) := by
  unfold Statement; revert c; decide

theorem bwEnc : Statement .bwEnc := by
  unfold Statement; decide

theorem setBw (c : Chip) : Statement (.setBw c) := by
  unfold Statement; revert c; decide

theorem chspEnc : Statement .chspEnc := by
  unfold Statement; decide

theorem setChsp (c : Chip) : Statement (.setChsp c) := by
  unfold Statement; revert c; decide

end Sys2Proof.Laws.MatchesRow
end

