-- ==== Sys2Proof/Tests/Slice0.lean ====
section
/-! SUPPORT. The author's own tests: WellFormed's checks, words written out from the formats of 30_encoding.md R71, one step of
each command with the values of the rules' examples and of 95_test_vectors.md, and a witness that the hypotheses of each
statement can be met. -/

open Sys2Proof Sys2Proof.Machine

namespace Sys2Proof.Tests

/-! ### WellFormed: each check refuses an ill-formed command, and admits the bounds (30_encoding.md R74, R77) -/

theorem test_wf_wrBurst_length :
    (Instr.wrBurst 0 0 0).wf = false ∧ (Instr.wrBurst 0 0 65).wf = false ∧ (Instr.wrBurst 0 0 1).wf = true ∧
      (Instr.wrBurst 0 0 64).wf = true := by decide
theorem test_wf_rdBurst_length :
    (Instr.rdBurst 0 0 0).wf = false ∧ (Instr.rdBurst 0 0 65).wf = false ∧ (Instr.rdBurst 0 0 1).wf = true ∧
      (Instr.rdBurst 0 0 64).wf = true := by decide
theorem test_wf_fget_field :
    (Instr.fget 0 .mdmcfg1 3).wf = false ∧ (Instr.fget 0 .mdmcfg1 2).wf = true ∧ (Instr.fget 0 .pktctrl0 4).wf = false := by
  decide
theorem test_wf_fset_field :
    (Instr.fset 0 .mdmcfg4 3 0).wf = false ∧ (Instr.fset 0 .mdmcfg4 2 0).wf = true ∧
      (Instr.fset 0 .pktctrl1 4 0).wf = false := by decide

/-! ### Decoding: each command's word, field by field from the formats of R71 and the opcodes of R73 -/

theorem test_decode_nop :
    decode (0b00000000#8 ++ 0b000000000000000000000000#24) = .ok (.nop) := by decide
theorem test_decode_busInit :
    decode (0b00000001#8 ++ 0b000000000000000000000000#24) = .ok (.busInit) := by decide
theorem test_decode_wrReg :
    decode (0b00010000#8 ++ 0b00#2 ++ 0b001101#6 ++ 0b00#2 ++ 0b000000#6 ++ 0b00010000#8) = .ok (.wrReg 0 0x0D 0x10) := by decide
theorem test_decode_rdReg :
    decode (0b00010001#8 ++ 0b00#2 ++ 0b001101#6 ++ 0b00#2 ++ 0b000000#6 ++ 0b00000000#8) = .ok (.rdReg 0 0x0D) := by decide
theorem test_decode_wrBurst :
    decode (0b00010010#8 ++ 0b00#2 ++ 0b001101#6 ++ 0b00#2 ++ 0b000010#6 ++ 0b00000000#8) = .ok (.wrBurst 0 0x0D 3) := by decide
theorem test_decode_rdBurst :
    decode (0b00010011#8 ++ 0b01#2 ++ 0b001101#6 ++ 0b00#2 ++ 0b000010#6 ++ 0b00000000#8) = .ok (.rdBurst 1 0x0D 3) := by decide
theorem test_decode_strobe :
    decode (0b00010100#8 ++ 0b00#2 ++ 0b110110#6 ++ 0b00#2 ++ 0b000000#6 ++ 0b00000000#8) = .ok (.strobe 0 0x36) := by decide
theorem test_decode_rdStatus :
    decode (0b00010101#8 ++ 0b00#2 ++ 0b110100#6 ++ 0b00#2 ++ 0b000000#6 ++ 0b00000000#8) = .ok (.rdStatus 0 0x34) := by decide
theorem test_decode_fdec :
    decode (0b00100000#8 ++ 0b00#2 ++ 0b000#3 ++ 0b000#3 ++ 0b00000#5 ++ 0b000#3 ++ 0b01000101#8) = .ok (.fdec .pktctrl0 0x45) := by decide
theorem test_decode_fenc :
    decode (0b00100001#8 ++ 0b00#2 ++ 0b000#3 ++ 0b001#3 ++ 0b00000#5 ++ 0b000#3 ++ 0b00000000#8) = .ok (.fenc .pktctrl1) := by decide
theorem test_decode_decomp :
    decode (0b00100010#8 ++ 0b00#2 ++ 0b000#3 ++ 0b011#3 ++ 0b00000#5 ++ 0b000#3 ++ 0b00000000#8) = .ok (.decomp 0 .mdmcfg2) := by decide
theorem test_decode_fget :
    decode (0b00100011#8 ++ 0b01#2 ++ 0b000#3 ++ 0b100#3 ++ 0b00000#5 ++ 0b010#3 ++ 0b00000000#8) = .ok (.fget 1 .mdmcfg4 2) := by decide
theorem test_decode_fset :
    decode (0b00100100#8 ++ 0b00#2 ++ 0b000#3 ++ 0b010#3 ++ 0b00000#5 ++ 0b001#3 ++ 0b00000100#8) = .ok (.fset 0 .mdmcfg1 1 0x04) := by decide
theorem test_decode_freqEnc :
    decode (0b00110000#8 ++ 0b00#2 ++ 0b0000000000000000000000#22) = .ok (.freqEnc) := by decide
theorem test_decode_setFreq :
    decode (0b00110001#8 ++ 0b01#2 ++ 0b0000000000000000000000#22) = .ok (.setFreq 1) := by decide
theorem test_decode_drateEnc :
    decode (0b00110010#8 ++ 0b00#2 ++ 0b0000000000000000000000#22) = .ok (.drateEnc) := by decide
theorem test_decode_setDrate :
    decode (0b00110011#8 ++ 0b01#2 ++ 0b0000000000000000000000#22) = .ok (.setDrate 1) := by decide
theorem test_decode_devEnc :
    decode (0b00110100#8 ++ 0b00#2 ++ 0b0000000000000000000000#22) = .ok (.devEnc) := by decide
theorem test_decode_setDev :
    decode (0b00110101#8 ++ 0b01#2 ++ 0b0000000000000000000000#22) = .ok (.setDev 1) := by decide
theorem test_decode_bwEnc :
    decode (0b00110110#8 ++ 0b00#2 ++ 0b0000000000000000000000#22) = .ok (.bwEnc) := by decide
theorem test_decode_setBw :
    decode (0b00110111#8 ++ 0b01#2 ++ 0b0000000000000000000000#22) = .ok (.setBw 1) := by decide
theorem test_decode_chspEnc :
    decode (0b00111000#8 ++ 0b00#2 ++ 0b0000000000000000000000#22) = .ok (.chspEnc) := by decide
theorem test_decode_setChsp :
    decode (0b00111001#8 ++ 0b01#2 ++ 0b0000000000000000000000#22) = .ok (.setChsp 1) := by decide

/-- The words of R75: an unknown opcode, a nonzero zero field, a chip, a RID and a FID out of range. -/
theorem test_decode_illegal :
    decode 0xFF000000 = .error .unknownOpcode ∧ decode 0x00000001 = .error .nonzeroReserved ∧
      decode 0x22380000 = .error .nonzeroReserved ∧ decode 0x10C00000 = .error .chipOutOfRange ∧
      decode 0x20050000 = .error .ridOutOfRange ∧ decode 0x23020300 = .error .fidOutOfRange := by decide

/-- The table's numbering is the word's. -/
theorem test_decodeTableWord :
    decodeTableWord 32 0x134D0200 = some (.rdBurst 1 0x0D 3) ∧ decodeTableWord 32 0x25000000 = none := by decide

/-! ### One step on a small state -/

/-- The state an outcome goes on in. -/
def ended : Host.Outcome State Fault Refusal → Option State
  | .next t => some t
  | .fault _ => none
  | .refused _ => none

/-- Reset, with the bus initialised and these chip answers fixed. -/
def booted (as : List Answer) : State :=
  { State.reset with status := { Status.reset with init := true }, lines := .idle, answers := as }

/-- A state with OPA set. -/
def withOpa (n : Nat) (s : State) : State := { s with opaLo := BitVec.ofNat 32 n, opaHi := BitVec.ofNat 32 (n / 2 ^ 32) }

/-- The state after the one step that runs a word. -/
def after (w : Nat) (s : State) : Option State := ended (step (s.withFetchWord 32 w))

/-- RES and STATUS after the step. -/
def resStatus (w : Nat) (s : State) : Option (Word × Word) := (after w s).map fun t => (t.res, t.status.word)

/-- Header, bytes out and bytes in of the transactions after the step. -/
def bus (w : Nat) (s : State) : Option (List (Byte × List Byte × List Byte)) :=
  (after w s).map fun t => t.history.map fun e => (e.hdr, e.sent, e.received)

/-- The host's accesses, one step each. -/
def hostStep (i : Input) (s : State) : Option State := ended (step { s with inputs := [i] })

-- Status words: DONE is bit 1, TIMEOUT 2, CLAMP 3, ILLEGAL 4, OVR 5, NOINIT 6, INIT 7, CAUSE 11:8 (10_state.md R24).

theorem test_nop : resStatus 0x00000000 State.reset = some (0, 0x00000002) := by decide
theorem test_busInit : resStatus 0x01000000 State.reset = some (0, 0x00000082) := by decide
theorem test_wrReg : bus 0x100D0010 (booted [.ready []]) = some [(0x0D, [0x10], [])] := by decide
theorem test_wrReg_before_busInit : resStatus 0x100D0010 State.reset = some (0, 0x00000542) := by decide
theorem test_rdReg : resStatus 0x110D0000 (booted [.ready [0x10]]) = some (0x00000010, 0x00000082) := by decide
theorem test_rdReg_timeout :
    resStatus 0x110D0000 { booted [.timeout] with res := 0xFF } = some (0x00000000, 0x00000186) := by decide
theorem test_wrBurst :
    bus 0x120D0200 { booted [.ready []] with buf := [(0, 0x10), (1, 0xB0), (2, 0x71)] } =
      some [(0x4D, [0x10, 0xB0, 0x71], [])] := by decide
theorem test_rdBurst : (after 0x134D0200 (booted [.ready [0x21, 0x62, 0x76]])).map (fun t => (t.buf, t.res)) =
    some ([(0, 0x21), (1, 0x62), (2, 0x76)], 3) := by decide
theorem test_rdBurst_timeout :
    (after 0x134D0200 { booted [.timeout] with buf := [(0, 0x55)] }).map (fun t => (t.buf, t.res)) =
      some ([(0, 0x55)], 0) := by decide
theorem test_strobe : bus 0x14360000 (booted [.ready []]) = some [(0x36, [], [])] := by decide
theorem test_rdStatus : bus 0x15340000 (booted [.ready [0x2A]]) = some [(0xF4, [], [0x2A])] := by decide
theorem test_fdec : resStatus 0x20000045 State.reset = some (0x01010001, 0x00000002) := by decide
theorem test_fenc :
    resStatus 0x21010000 { State.reset with opaLo := 0x00010004 } = some (0x00000084, 0x00000002) := by decide
/-- A lane above its max is clamped, not masked: PQT = 7 (41_bitfield.md R138). -/
theorem test_fenc_clamps :
    resStatus 0x21010000 { State.reset with opaLo := 0x000000FF } = some (0x000000E0, 0x0000020A) := by decide
theorem test_decomp : resStatus 0x22030000 (booted [.ready [0x13]]) = some (0x03000100, 0x00000082) := by decide
theorem test_fget : resStatus 0x23010000 (booted [.ready [0x84]]) = some (0x00000004, 0x00000082) := by decide
theorem test_fset :
    bus 0x24010004 (booted [.ready [0x04], .ready []]) = some [(0x87, [], [0x04]), (0x07, [0x84], [])] := by decide
/-- A write that times out leaves the byte that was to be written in RES (41_bitfield.md R141). -/
theorem test_fset_write_timeout :
    resStatus 0x24010004 (booted [.ready [0x04], .timeout]) = some (0x00000084, 0x00000186) := by decide
/-- 433.92 MHz (42_frequency.md R164). -/
theorem test_freqEnc : resStatus 0x30000000 (withOpa 43392000000 State.reset) = some (0x0010B071, 0x00000002) := by decide
/-- FMAX + 1 (42_frequency.md R164). -/
theorem test_freqEnc_clamps :
    resStatus 0x30000000 (withOpa 665600000000 State.reset) = some (0x00FFFFFF, 0x0000020A) := by decide
theorem test_setFreq : bus 0x31000000 (withOpa 43392000000 (booted [.ready [], .ready [], .ready []])) =
    some [(0x0D, [0x10], []), (0x0E, [0xB0], []), (0x0F, [0x71], [])] := by decide
/-- A clamped word whose second write times out: CAUSE = 1 and both bits set (60_exceptions.md R227). -/
theorem test_setFreq_clamp_and_timeout :
    resStatus 0x31000000 (withOpa 665600000000 (booted [.ready [], .timeout])) = some (0x00FFFFFF, 0x0000018E) := by decide
/-- 4.8 kbps (43_link.md R183). -/
theorem test_drateEnc : resStatus 0x32000000 (withOpa 480000000 State.reset) = some (0x00000783, 0x00000002) := by decide
/-- 0.04949415 kbps, just above the threshold (43_link.md R183). -/
theorem test_drateEnc_threshold :
    resStatus 0x32000000 (withOpa 4949415 State.reset) = some (0x00000100, 0x00000002) := by decide
theorem test_setDrate : bus 0x33000000 (withOpa 480000000 (booted [.ready [0xC5], .ready [], .ready []])) =
    some [(0x90, [], [0xC5]), (0x10, [0xC7], []), (0x11, [0x83], [])] := by decide
/-- 5 kHz (43_link.md R186). -/
theorem test_devEnc : resStatus 0x34000000 (withOpa 500000000 State.reset) = some (0x00000015, 0x00000002) := by decide
/-- 1000 kHz (43_link.md R186). -/
theorem test_devEnc_clamps :
    resStatus 0x34000000 (withOpa 100000000000 State.reset) = some (0x00000077, 0x0000020A) := by decide
theorem test_setDev : bus 0x35000000 (withOpa 500000000 (booted [.ready []])) = some [(0x15, [0x15], [])] := by decide
/-- 325 kHz (43_link.md R189). -/
theorem test_bwEnc : resStatus 0x36000000 (withOpa 32500000000 State.reset) = some (0x00000050, 0x00000002) := by decide
/-- 101.6 kHz (43_link.md R189). -/
theorem test_bwEnc_threshold :
    resStatus 0x36000000 (withOpa 10160000000 State.reset) = some (0x000000B0, 0x00000002) := by decide
theorem test_setBw : bus 0x37000000 (withOpa 32500000000 (booted [.ready [0xC7], .ready []])) =
    some [(0x90, [], [0xC7]), (0x10, [0x57], [])] := by decide
/-- 200 kHz (43_link.md R192). -/
theorem test_chspEnc : resStatus 0x38000000 (withOpa 20000000000 State.reset) = some (0x000002F8, 0x00000002) := by decide
/-- 50.7 kHz (43_link.md R192). -/
theorem test_chspEnc_threshold :
    resStatus 0x38000000 (withOpa 5070000000 State.reset) = some (0x00000100, 0x00000002) := by decide
/-- 50 kHz over 0xAF (95_test_vectors.md). -/
theorem test_setChsp : bus 0x39000000 (withOpa 5000000000 (booted [.ready [0xAF], .ready [], .ready []])) =
    some [(0x93, [], [0xAF]), (0x13, [0xA0], []), (0x14, [0xF8], [])] := by decide
/-- With another REGADDR table the command reaches that table's address (20_memory.md R56). -/
theorem test_setDev_other_table :
    let s := withOpa 500000000 (booted [.ready []])
    bus 0x35000000 { s with params := { s.params with regaddr := { s.params.regaddr with aDeviatn := 0x21 } } } =
      some [(0x21, [0x15], [])] := by decide
theorem test_illegal_word : resStatus 0x00000001 { State.reset with res := 7 } = some (7, 0x00000312) := by decide

/-! ### The host's accesses (10_state.md R20 to R36) -/

theorem test_write_buf_word : (hostStep (.write 0x44 4 0x44332211) State.reset).map (·.buf) =
    some [(4, 0x11), (5, 0x22), (6, 0x33), (7, 0x44)] := by decide
/-- `clr` clears DONE and the sticky bits, and leaves INIT and CAUSE (30_encoding.md R78). -/
theorem test_clr :
    (hostStep (.write 0x04 4 0x0000007E)
      { State.reset with status := ⟨false, true, true, true, true, true, true, true, 5⟩ }).map (·.status.word) =
      some 0x00000580 := by decide
/-- A dropped write (10_state.md R30). -/
theorem test_overrun :
    (hostStep (.write 0x08 4 5) { State.reset with status := { Status.reset with busy := true } }).map
      (fun t => (t.opaLo, t.status.word)) = some (0, 0x00000021) := by decide
/-- A refused access has no step (20_memory.md R51). -/
theorem test_undefined_access :
    step { State.reset with inputs := [.read 0x80 4] } = .refused (.undefinedHostAccess 0x80 4) := rfl
/-- A reset inside a command (70_reset_and_hazards.md R251). -/
theorem test_reset_inside_a_command :
    (hostStep .reset ((booted []).withFetchWord 32 0x01000000)).map (fun t => (t.status.word, t.eng)) =
      some (0, .idle) := by decide

/-! ### Witnesses: for each statement with hypotheses, a state and operands that meet them, clause by clause -/

/-- A state with one thing to come. -/
def coming (i : Input) (rest : List Input) : State := { State.reset with inputs := i :: rest }

/-- A state with BUSY = 1 and a command accepted, and one thing to come. -/
def busyComing (i : Input) : State := { State.reset.withFetchWord 32 0x01000000 with inputs := [i] }

theorem witness_DecodeOfEncodeIsTheCommand :
    (Instr.wrBurst 1 0x3F 64).wf = true ∧ (Instr.fset 1 .pktctrl1 3 0xFF).wf = true := by decide
theorem witness_DecodedWordIsTheEncoding : decode 0x247301FF = .error .nonzeroReserved ∧
    decode 0x244403FF = .error .fidOutOfRange ∧ decode 0x244402FF = .ok (.fset 1 .mdmcfg4 2 0xFF) := by decide
theorem witness_AtMostOneRowMatches : (0x244402FF : Word) &&& Opcode.fset.mask = Opcode.fset.pattern := by decide
theorem witness_StepRunsTheDecodedCommand :
    (State.reset.withFetchWord 32 0x01000000).eng = .accepted ∧
      decode (State.reset.withFetchWord 32 0x01000000).cmd = .ok .busInit ∧
      (State.reset.withFetchWord 32 0x01000000).inputs = [] ∧
      (busyComing .wait).eng = .accepted ∧ decode (busyComing .wait).cmd = .ok .busInit ∧
      (busyComing .wait).inputs = [.wait] ∧ (busyComing .wait).status.busy = true := by decide
theorem witness_IllegalWordOnlyReports :
    (State.reset.withFetchWord 32 0xFF000000).inputs = [] ∧ (State.reset.withFetchWord 32 0xFF000000).eng = .accepted ∧
      decode (State.reset.withFetchWord 32 0xFF000000).cmd = .error .unknownOpcode := by decide
theorem witness_UninitializedBusCommandOnlyReports :
    (Instr.setChsp 1).usesBus = true ∧ State.reset.status.init = false := by decide
theorem witness_PhasesRefineTheCommand :
    (State.reset.withFetchWord 32 0x31000000).eng = .accepted ∧ (State.reset.withFetchWord 32 0x31000000).sel = none := by
  decide
theorem witness_StatusIsUnchangedUntilCompletion :
    ((booted [.ready []]).withFetchWord 32 0x31000000).phase.eng ≠ .idle := by decide
theorem witness_WritingCmdIssuesOrOverruns :
    (coming (.write 0x00 4 0x01000000) []).inputs = [.write 0x00 4 0x01000000] ∧
      (coming (.write 0x00 4 0x01000000) []).status.busy = false ∧
      (busyComing (.write 0x00 4 0x01000000)).inputs = [.write 0x00 4 0x01000000] ∧
      (busyComing (.write 0x00 4 0x01000000)).status.busy = true := by decide
theorem witness_BusyWritesAreDroppedAndFlagged :
    (busyComing (.write 0x7C 4 1)).inputs = [.write (0x40 + 4 * 15) 4 1] ∧ (busyComing (.write 0x40 4 1)).status.busy = true ∧
      (busyComing (.write 0x40 4 1)).inputs = [.write (0x40 + 4 * 0) 4 1] ∧
      (busyComing (.write 0x0C 4 1)).inputs = [.write 0x0C 4 1] := by decide
theorem witness_StatusWriteClearsOnlyWrittenOnes :
    (busyComing (.write 0x04 4 0xFFFFFFFF)).inputs = [.write 0x04 4 0xFFFFFFFF] := by decide
theorem witness_OpaHalvesAreWrittenSeparately :
    (coming (.write 0x08 4 1) []).inputs = [.write 0x08 4 1] ∧ (coming (.write 0x0C 4 1) []).inputs = [.write 0x0C 4 1] ∧
      (coming (.write 0x0C 4 1) []).status.busy = false := by decide
theorem witness_BufWordHoldsItsFourBytes : (15 < 16 ∧ 0 < 16) ∧
    (coming (.write 0x7C 4 0x04030201) [.read 0x7C 4]).buf.wf = true ∧
      (coming (.write 0x7C 4 0x04030201) [.read 0x7C 4]).status.busy = false ∧
      (coming (.write 0x7C 4 0x04030201) [.read 0x7C 4]).inputs =
        [.write (0x40 + 4 * 15) 4 0x04030201, .read (0x40 + 4 * 15) 4] ∧
      (coming (.write 0x40 4 0x04030201) [.read 0x40 4]).inputs =
        [.write (0x40 + 4 * 0) 4 0x04030201, .read (0x40 + 4 * 0) 4] := by decide
theorem witness_HostReadsReturnTheRegisterMap :
    (busyComing (.read 0x0C 4)).inputs = [.read 0x0C 4] ∧ (coming (.read 0x10 4) []).status.busy = false ∧
      (coming (.read 0x7C 4) []).inputs = [.read (0x40 + 4 * 15) 4] ∧
      (0 : Word) = (coming (.read 0x7C 4) []).buf.read 63 ++ (coming (.read 0x7C 4) []).buf.read 62 ++
        (coming (.read 0x7C 4) []).buf.read 61 ++ (coming (.read 0x7C 4) []).buf.read 60 := by decide
theorem witness_BusyReadsChangeNothing :
    (busyComing (.read 0x10 4)).inputs = [.read 0x10 4] ∧ (busyComing (.read 0x7C 4)).inputs = [.read (0x40 + 4 * 15) 4] ∧
      (busyComing (.read 0x7C 4)).status.busy = true := by decide
theorem witness_ReservedOffsetsReadZeroIgnoreWrites :
    (0x14 ≤ 0x14 ∧ 0x14 ≤ 0x3C ∧ 0x14 % 4 = 0) ∧ (0x14 ≤ 0x3C ∧ 0x3C ≤ 0x3C ∧ 0x3C % 4 = 0) ∧
      (busyComing (.read 0x3C 4)).inputs = [.read 0x3C 4] ∧ (busyComing (.write 0x14 4 1)).inputs = [.write 0x14 4 1] := by
  decide
theorem witness_OnlyDefinedHostAccessesHaveAStep :
    (coming (.read 0x7C 4) []).inputs = [.read 0x7C 4] ∧ (coming (.write 0x80 4 1) []).inputs = [.write 0x80 4 1] ∧
      (coming (.read 0x02 4) []).inputs = [.read 0x02 4] ∧ (coming (.read 0x00 1) []).inputs = [.read 0x00 1] := by decide
theorem witness_ResetCutsTheCommandOff : (busyComing .reset).inputs = [.reset] ∧ (busyComing .reset).eng = .accepted := by
  decide
/-- A step that goes on, from a state with every sticky bit set; and one that clears them all. -/
theorem witness_StickyBitsAreClearedOnlyFromOutside :
    (ended (step { coming (.write 0x04 4 0x7C) [] with
      status := ⟨false, true, true, true, true, true, true, true, 5⟩ })).map (·.status.word) = some 0x00000582 ∧
    (ended (step { coming (.write 0x04 4 0x00) [] with
      status := ⟨false, true, true, true, true, true, true, true, 5⟩ })).map (·.status.word) = some 0x000005FE := by decide
/-- INIT is set, and is cleared. -/
theorem witness_InitIsSetByBusInitAndClearedByReset :
    (after 0x01000000 State.reset).map (·.status.init) = some true ∧
      (ended (step { booted [] with inputs := [.reset] })).map (·.status.init) = some false := by decide
theorem witness_HostWritesCmdAndOpaEngineWritesRes :
    (hostStep (.write 0x00 4 0x01000000) State.reset).map (·.cmd) = some 0x01000000 ∧
      (hostStep (.write 0x08 4 5) State.reset).map (·.opaLo) = some 5 ∧
      (hostStep (.write 0x0C 4 5) State.reset).map (·.opaHi) = some 5 ∧
      (hostStep (.write 0x10 4 5) State.reset).map (·.res) = some 0 ∧
      (ended (step (busyComing (.write 0x08 4 5)))).map (·.status.ovr) = some true ∧
      (ended (step (busyComing (.write 0x40 4 5)))).map (·.status.ovr) = some true ∧
      (ended (step (busyComing (.write 0x7C 4 5)))).map (·.status.ovr) = some true ∧
      (ended (step (busyComing (.write 0x10 4 5)))).map (fun t => (t.status.ovr, t.res)) = some (false, 0) := by decide
/-- A state with a command in progress meets the invariant, and has a step. -/
theorem witness_EveryStepKeepsTheInvariant :
    (State.reset.withFetchWord 32 0x01000000).Inv ∧ ∃ t, step (State.reset.withFetchWord 32 0x01000000) = .next t := by
  refine ⟨⟨rfl, ?_, ?_, ?_, ?_, ?_, ?_, ?_, ?_⟩, ?_⟩
  · exact ⟨fun _ => by simp [State.withFetchWord, State.accept], fun _ => rfl⟩
  · exact fun h => by cases h.2
  · exact fun c h => by cases h
  · exact ⟨fun h => (by cases h), fun h => (by cases h)⟩
  · exact List.mem_cons_self
  · exact fun f h => by cases h
  · exact fun e h => by cases h
  · exact fun h => absurd rfl h
  · exact ⟨_, rfl⟩
theorem witness_BusXferAnswersAndRecords :
    (booted [.ready [1, 2]]).pollReady 1 0xC5 [] 2 = true ∧ (booted [.timeout]).pollReady 1 0xC5 [] 2 = false := by decide
theorem witness_CommandsAddOnlyTheirOwnTransactions :
    (ended (exec (.setFreq 1) (booted [.ready [], .ready [], .timeout]))).map (·.history.length) = some 3 ∧
      (ended (exec .freqEnc State.reset)).map (·.history.length) = some 0 := by decide
theorem witness_CommandFrame :
    (ended (exec (.wrBurst 1 0x3F 64) (booted [.timeout]))).map (·.res) = some 0 ∧ Instr.nop ≠ .busInit := by decide
theorem witness_BusInitConfiguresOnce : State.reset.status.init = false ∧ (booted []).status.init = true := by decide
theorem witness_WriteAndStrobeResults :
    (booted [.ready []]).status.init = true ∧ (booted [.ready []]).pollReady 0 (hdrWrite 0x3F) [0xFF] 0 = true ∧
      (booted [.timeout]).pollReady 0 (hdrWrite 0x3F) [0xFF] 0 = false ∧
      (booted [.ready []]).pollReady 1 (hdrStrobe 0) [] 0 = true ∧ (booted [.timeout]).pollReady 1 (hdrStrobe 0) [] 0 = false := by
  decide
theorem witness_ReadRegAndStatusResults :
    (booted [.ready [7]]).status.init = true ∧ (booted [.ready [7]]).pollReady 0 (hdrRead 0x3F) [] 1 = true ∧
      (booted [.timeout]).pollReady 0 (hdrRead 0x3F) [] 1 = false ∧
      (booted [.ready [7]]).pollReady 1 (hdrStatus 0) [] 1 = true ∧ (booted [.timeout]).pollReady 1 (hdrStatus 0) [] 1 = false := by
  decide
theorem witness_WriteBurstSendsTheBuffer :
    (booted [.ready []]).status.init = true ∧ ([0x00, 0x00] : List Byte).length = 2 ∧
      (∀ k < 2, ([0x00, 0x00] : List Byte)[k]? = some ((booted [.ready []]).buf.read k)) ∧
      (booted [.ready []]).pollReady 0 (hdrBurstWrite 0) [0x00, 0x00] 0 = true ∧
      (booted [.timeout]).pollReady 0 (hdrBurstWrite 0) [0x00, 0x00] 0 = false := by decide
theorem witness_ReadBurstFillsTheBuffer : (1 ≤ 64 ∧ 64 ≤ 64) ∧
    (booted [.ready [1]]).status.init = true ∧ (booted [.ready [1]]).buf.wf = true ∧
      (booted [.ready [1]]).pollReady 1 (hdrBurstRead 0x3F) [] 64 = true ∧
      (booted [.timeout]).pollReady 1 (hdrBurstRead 0x3F) [] 64 = false := by decide
theorem witness_DecompAndFgetReadTheLiveRegister :
    (booted [.ready [0x84]]).status.init = true ∧
      (booted [.ready [0x84]]).pollReady 0 (hdrRead (regAddr RegAddr.default .pktctrl1)) [] 1 = true ∧
      (peel ((booted [.ready [0x84]]).answerByte 0 (hdrRead (regAddr RegAddr.default .pktctrl1))) .pktctrl1)[0]? = some 4 ∧
      (booted [.timeout]).pollReady 0 (hdrRead (regAddr RegAddr.default .pktctrl1)) [] 1 = false := by decide

/-- The bus event of the read of FSET in the witness below. -/
def fsetRead : BusEvent := ⟨0, hdrRead (regAddr RegAddr.default .pktctrl1), [], [0x04], .ok⟩

theorem witness_FsetReplacesOneField :
    3 < PackedReg.pktctrl1.nf ∧ (booted [.ready [0x04]]).status.init = true ∧
      (booted [.timeout]).pollReady 0 (hdrRead (regAddr RegAddr.default .pktctrl1)) [] 1 = false ∧
      (booted [.ready [0x04], .timeout]).pollReady 0 (hdrRead (regAddr RegAddr.default .pktctrl1)) [] 1 = true ∧
      ((booted [.ready [0x04], .timeout]).afterXfer fsetRead).pollReady 0 (hdrWrite (regAddr RegAddr.default .pktctrl1)) [0x84] 0 = false ∧
      ((booted [.ready [0x04], .ready []]).afterXfer fsetRead).pollReady 0 (hdrWrite (regAddr RegAddr.default .pktctrl1)) [0x84] 0 = true := by
  decide
theorem witness_FencOfFdecReturnsTheByte : (ended (exec (.fdec .mdmcfg2 0xFF) State.reset)).map (·.res) = some 0x07010701 := by
  decide

/-- The state after an FSET of PQT on a chip that holds 0x04 and then 0x84. -/
def fsetEnd : Option State := ended (exec (.fset 0 .pktctrl1 0 4) (booted [.ready [0x04], .ready [], .ready [0x84]]))

theorem witness_FsetPreservesSiblings :
    (0 < PackedReg.pktctrl1.nf ∧ 2 < PackedReg.pktctrl1.nf) ∧ (booted []).status.init = true ∧
      fsetEnd.map (·.status.cause) = some 0 ∧
      fsetEnd.map (fun t => (t.res, t.answerByte 0 (hdrRead (regAddr RegAddr.default .pktctrl1)))) = some (0x00000084, 0x84) ∧
      (fsetEnd.bind fun t => ended (exec (.fget 0 .pktctrl1 2) t)).map (fun u => (u.status.cause, u.res)) = some (0, 1) ∧
      (fsetEnd.bind fun t => ended (exec (.fget 0 .pktctrl1 0) t)).map (fun u => (u.status.cause, u.res)) = some (0, 4) := by
  decide
theorem witness_RhuIsFloorOfQuotientPlusHalf : (0 : Int) < 2 ∧ rhu (-1) 2 = 0 ∧ rhu 1 2 = 1 ∧ rhu (-3) 2 = -1 := by decide
theorem witness_ClampqSaturatesAndFlags : 2 ≤ 5 ∧ 1 < 2 ∧ (2 ≤ 2 ∧ 2 ≤ 5) ∧ (2 ≤ 5 ∧ 5 ≤ 5) ∧ 5 < 6 := by decide
theorem witness_FreqCountsAreTheSubtractionLoops : 665599999999 ≤ Config.freqMax := by decide
theorem witness_FreqWordTruncatesBelowOneStep : 0 ≤ Config.freqMax ∧ 665599999999 ≤ Config.freqMax ∧
    Config.freqMax < 665600000000 := by decide
theorem witness_DrateIsTheHalvingLoop : Config.drL ≤ 162183000000 ∧ 162183000000 ≤ Config.drU ∧
    Config.drL ≤ 2479550 := by decide
theorem witness_DrateDecodesWithinHalfACount : Config.drL ≤ 480000000 ∧ 480000000 ≤ Config.drU ∧
    (drate 480000000).e < 15 := by decide
theorem witness_DevIsTheFirstStepReached : Config.dvL ≤ 38085937500 ∧ 38085937500 ≤ Config.dvU ∧
    Config.dvL ≤ 158691400 := by decide
theorem witness_ChspIsTheHalvingLoop : Config.csL ≤ 40545654300 ∧ 40545654300 ≤ Config.csU ∧
    Config.csL ≤ 2539062500 := by decide

/-- 433.92 MHz in OPA, and these chip answers. -/
def freqState (as : List Answer) : State := withOpa 43392000000 (booted as)

theorem witness_SetFreqWritesHighMidLow :
    (freqState []).status.init = true ∧ (freqState [.timeout]).pollReady 0 (hdrWrite RegAddr.default.aFreq2) [0x10] 0 = false ∧
      (freqState [.ready [], .timeout]).pollReady 0 (hdrWrite RegAddr.default.aFreq2) [0x10] 0 = true ∧
      ((freqState [.ready [], .timeout]).afterXfer ⟨0, 0x0D, [0x10], [], .ok⟩).pollReady 0
        (hdrWrite RegAddr.default.aFreq1) [0xB0] 0 = false ∧
      (((freqState [.ready [], .ready [], .timeout]).afterXfer ⟨0, 0x0D, [0x10], [], .ok⟩).afterXfer
        ⟨0, 0x0E, [0xB0], [], .ok⟩).pollReady 0 (hdrWrite RegAddr.default.aFreq0) [0x71] 0 = false ∧
      (((freqState [.ready [], .ready [], .ready []]).afterXfer ⟨0, 0x0D, [0x10], [], .ok⟩).afterXfer
        ⟨0, 0x0E, [0xB0], [], .ok⟩).pollReady 0 (hdrWrite RegAddr.default.aFreq0) [0x71] 0 = true := by decide

/-- The polls of a read and two writes, answered in this order by a chip that is then asked for MDMCFG4 or MDMCFG1. -/
def polls (as : List Answer) (a0 a1 a2 : Addr) (b new m : Byte) : Bool × Bool × Bool :=
  let s0 := booted as
  let s1 := s0.afterXfer ⟨0, hdrRead a0, [], [b], .ok⟩
  let s2 := s1.afterXfer ⟨0, hdrWrite a1, [new], [], .ok⟩
  (s0.pollReady 0 (hdrRead a0) [] 1, s1.pollReady 0 (hdrWrite a1) [new] 0, s2.pollReady 0 (hdrWrite a2) [m] 0)

theorem witness_SetDrateMergesTheExponent :
    (booted []).status.init = true ∧
      (polls [.timeout] 0x10 0x10 0x11 0xC5 0xC7 0x83).1 = false ∧
      polls [.ready [0xC5], .timeout, .timeout] 0x10 0x10 0x11 0xC5 0xC7 0x83 = (true, false, false) ∧
      polls [.ready [0xC5], .ready [], .timeout] 0x10 0x10 0x11 0xC5 0xC7 0x83 = (true, true, false) ∧
      polls [.ready [0xC5], .ready [], .ready []] 0x10 0x10 0x11 0xC5 0xC7 0x83 = (true, true, true) := by decide
theorem witness_SetDevWritesTheWholeRegister :
    (booted []).status.init = true ∧ (booted [.timeout]).pollReady 0 (hdrWrite RegAddr.default.aDeviatn) [0x15] 0 = false ∧
      (booted [.ready []]).pollReady 0 (hdrWrite RegAddr.default.aDeviatn) [0x15] 0 = true := by decide
theorem witness_SetBwMergesTheNibble :
    (booted []).status.init = true ∧
      (polls [.timeout] 0x10 0x10 0x10 0xC7 0x57 0x00).1 = false ∧
      polls [.ready [0xC7], .timeout, .timeout] 0x10 0x10 0x10 0xC7 0x57 0x00 = (true, false, false) ∧
      polls [.ready [0xC7], .ready [], .timeout] 0x10 0x10 0x10 0xC7 0x57 0x00 = (true, true, false) := by decide
theorem witness_SetChspMergesTheExponent :
    (booted []).status.init = true ∧
      (polls [.timeout] 0x13 0x13 0x14 0xAF 0xA0 0xF8).1 = false ∧
      polls [.ready [0xAF], .timeout, .timeout] 0x13 0x13 0x14 0xAF 0xA0 0xF8 = (true, false, false) ∧
      polls [.ready [0xAF], .ready [], .timeout] 0x13 0x13 0x14 0xAF 0xA0 0xF8 = (true, true, false) ∧
      polls [.ready [0xAF], .ready [], .ready []] 0x13 0x13 0x14 0xAF 0xA0 0xF8 = (true, true, true) := by decide

end Sys2Proof.Tests
end

section
/-! Arithmetic (00_scope.md R11, R12): rhu against the rational rounding it stands for, and the clamp outside its range. -/

namespace Sys2Proof.Machine

/-- The integer form of R11's rounding is the rounding of the exact quotient: num/den + 1/2 over the common denominator
2·den. -/
theorem roundHalfUp_div_eq_rhu {num den : Int} (h : 0 < den) : roundHalfUp ((num : ℚ) / den) = rhu num den := by
  lift den to ℕ using h.le
  have hden : (den : ℚ) ≠ 0 := by exact_mod_cast h.ne'
  have hsum : (num : ℚ) / (den : ℤ) + 1 / 2 = ((2 * num + den : ℤ) : ℚ) / ((2 * den : ℕ) : ℚ) := by
    push_cast
    field_simp
  calc roundHalfUp ((num : ℚ) / (den : ℤ))
    _ = ⌊((2 * num + den : ℤ) : ℚ) / ((2 * den : ℕ) : ℚ)⌋ := congrArg Int.floor hsum
    _ = (2 * num + den) / ((2 * den : ℕ) : ℤ) := Rat.floor_intCast_div_natCast _ _
    _ = rhu num den := by rw [Nat.cast_mul, Nat.cast_ofNat, rhu]

theorem clampq_of_lt {q lo hi : Nat} (hq : q < lo) (h : lo ≤ hi) : clampq q lo hi = (lo, true) := by
  simp [clampq, hq, hq.le, h]

theorem clampq_of_gt {q lo hi : Nat} (hq : hi < q) : clampq q lo hi = (hi, true) := by
  simp [clampq, hq, hq.le]

/-- Settles O46: floor division and `/` agree on a positive divisor, and the floor is the rounding of the exact quotient. -/
theorem rhuIsFloorOfQuotientPlusHalf : Obligations.RhuIsFloorOfQuotientPlusHalf := by
  intro num den h
  constructor
  · exact (Int.fdiv_eq_ediv_of_nonneg _ (by omega)).symm
  · exact (roundHalfUp_div_eq_rhu h).symm

/-- Settles O47: one clamp lemma per range. -/
theorem clampqSaturatesAndFlags : Obligations.ClampqSaturatesAndFlags := fun _ _ _ h =>
  ⟨(clampq_of_lt · h), clampq_of_mem, clampq_of_gt⟩

end Sys2Proof.Machine
end

section
/-! The host interface (10_state.md R20 to R36): a host access as one step, the register map, what each write does, and the
words of STATUS and BUF. -/

namespace Sys2Proof.Machine

/-! ### The register map (10_state.md R20) -/

@[simp] theorem hostReg_cmd : hostReg 0x00 4 = some .cmd := rfl
@[simp] theorem hostReg_status : hostReg 0x04 4 = some .status := rfl
@[simp] theorem hostReg_opaLo : hostReg 0x08 4 = some .opaLo := rfl
@[simp] theorem hostReg_opaHi : hostReg 0x0C 4 = some .opaHi := rfl
@[simp] theorem hostReg_res : hostReg 0x10 4 = some .res := rfl

theorem hostReg_reserved {o : Nat} (hlo : 0x14 ≤ o) (hhi : o ≤ 0x3C) (h4 : o % 4 = 0) : hostReg o 4 = some .reserved := by
  unfold hostReg
  rw [if_pos (by omega), if_neg (by omega), if_neg (by omega), if_neg (by omega), if_neg (by omega), if_neg (by omega),
    if_pos (by omega)]

/-- Where a register of the map is: each at its own offset, and only 32 bits wide. -/
theorem hostReg_cases {o n : Nat} {r : HostReg} (h : hostReg o n = some r) : n = 4 ∧
    ((r = .cmd ∧ o = 0x00) ∨ (r = .status ∧ o = 0x04) ∨ (r = .opaLo ∧ o = 0x08) ∨ (r = .opaHi ∧ o = 0x0C) ∨
      (r = .res ∧ o = 0x10) ∨ r = .reserved ∨ ∃ k < 16, r = .buf k ∧ o = 0x40 + 4 * k) := by
  cases r with
  | buf k =>
    obtain ⟨hk, ho, hn⟩ := hostReg_buf h
    exact ⟨hn, by simp [hk, ho]⟩
  | _ =>
    unfold hostReg at h
    split at h
    · split_ifs at h <;> simp_all
    · cases h

/-! ### A host access is one step -/

/-- A write takes the register's effect. -/
theorem step_write {s t : State} {o n : Nat} {v : Word} {rest : List Input} {r : HostReg}
    (hin : s.inputs = .write o n v :: rest) (hr : hostReg o n = some r) (ht : (s.next rest).writeReg v r = t) :
    step s = .next t := by
  simp only [step, hin, hostWrite, hr, ht]

theorem regValue_next (s : State) (rest : List Input) (o : Nat) (r : HostReg) :
    (s.next rest).regValue o r = s.regValue o r := by cases r <;> rfl

/-- A read returns the register's value and changes nothing of the machine (20_memory.md R59). -/
theorem step_read {s : State} {o n : Nat} {v : Word} {rest : List Input} {r : HostReg}
    (hin : s.inputs = .read o n :: rest) (hr : hostReg o n = some r) (hv : s.regValue o r = v) :
    ∃ t, step s = .next t ∧ t.rdata = some v ∧
      t = { s with inputs := rest, rdata := t.rdata, readDraws := t.readDraws } := by
  refine ⟨(s.next rest).returned v, ?_, rfl, rfl⟩
  simp only [step, hin, hostRead, hr, regValue_next, hv]

/-! ### The values of a read -/

theorem regValue_res_of_idle {s : State} (h : s.status.busy = false) (o : Nat) : s.regValue o .res = s.res := by
  simp [State.regValue, h]

theorem regValue_buf_of_idle {s : State} (h : s.status.busy = false) (o k : Nat) :
    s.regValue o (.buf k) = s.buf.readWord k := by
  simp [State.regValue, h]

theorem step_read_buf {s : State} {k : Nat} {v : Word} {rest : List Input} (hk : k < 16)
    (hin : s.inputs = .read (0x40 + 4 * k) 4 :: rest) (hb : s.status.busy = false) (hv : s.buf.readWord k = v) :
    ∃ t, step s = .next t ∧ t.rdata = some v ∧
      t = { s with inputs := rest, rdata := t.rdata, readDraws := t.readDraws } :=
  step_read hin (hostReg_of_buf hk) ((regValue_buf_of_idle hb _ k).trans hv)

/-! ### The effects of a write -/

/-- The registers a write of which is dropped while BUSY = 1 (10_state.md R30). -/
def HostReg.guarded : HostReg → Bool
  | .cmd | .opaLo | .opaHi | .buf _ => true
  | .status | .res | .reserved => false

theorem writeReg_of_busy {s : State} {r : HostReg} (v : Word) (hr : r.guarded = true) (h : s.status.busy = true) :
    s.writeReg v r = s.overrun := by
  cases r
  case cmd | opaLo | opaHi | buf => simp [State.writeReg, h]
  case status | res | reserved => cases hr

theorem writeReg_cmd {s : State} (v : Word) (h : s.status.busy = false) : s.writeReg v .cmd = s.accept v := by
  simp [State.writeReg, h]

theorem writeReg_opaLo {s : State} (v : Word) (h : s.status.busy = false) :
    s.writeReg v .opaLo = { s with opaLo := v } := by
  simp [State.writeReg, h]

theorem writeReg_opaHi {s : State} (v : Word) (h : s.status.busy = false) :
    s.writeReg v .opaHi = { s with opaHi := v } := by
  simp [State.writeReg, h]

theorem writeReg_buf {s : State} (v : Word) (k : Nat) (h : s.status.busy = false) :
    s.writeReg v (.buf k) = s.setBuf (s.buf.writeWord k v) := by
  simp [State.writeReg, h]

@[simp] theorem writeReg_status (s : State) (v : Word) :
    s.writeReg v .status = { s with status := s.status.writeOneToClear v } := rfl

/-- What a write can do: it is dropped, or it takes the register's own effect, or the register ignores it. -/
theorem writeReg_cases (s : State) (v : Word) (r : HostReg) :
    (s.status.busy = true ∧ r.guarded = true ∧ s.writeReg v r = s.overrun) ∨
    (s.status.busy = false ∧ r = .cmd ∧ s.writeReg v r = s.accept v) ∨
    (s.status.busy = false ∧ r = .opaLo ∧ s.writeReg v r = { s with opaLo := v }) ∨
    (s.status.busy = false ∧ r = .opaHi ∧ s.writeReg v r = { s with opaHi := v }) ∨
    (∃ k, r = .buf k ∧ s.writeReg v r = s.setBuf (s.buf.writeWord k v)) ∨
    (r = .status ∧ s.writeReg v r = { s with status := s.status.writeOneToClear v }) ∨
    s.writeReg v r = s := by
  cases hb : s.status.busy with
  | true =>
    cases r
    case cmd | opaLo | opaHi | buf => exact .inl ⟨rfl, rfl, writeReg_of_busy v rfl hb⟩
    case status => simp
    case res | reserved => simp [State.writeReg]
  | false =>
    cases r with
    | cmd => simp [writeReg_cmd v hb]
    | opaLo => simp [writeReg_opaLo v hb]
    | opaHi => simp [writeReg_opaHi v hb]
    | buf k => simp [writeReg_buf v k hb]
    | status => simp
    | res | reserved => simp [State.writeReg]

/-! ### The words of STATUS and BUF -/

/-- A write of STATUS, bit by bit (10_state.md R24). -/
theorem Status.writeOneToClear_word_getLsbD (st : Status) (v : Word) {k : Nat} (hk : k < 32) :
    (st.writeOneToClear v).word.getLsbD k =
      (st.word.getLsbD k && !(decide (1 ≤ k ∧ k ≤ 6) && v.getLsbD k)) := by
  rw [Status.word_getLsbD _ hk, Status.word_getLsbD _ hk]
  rcases Nat.lt_or_ge k 8 with hflag | hcause
  · interval_cases k <;> simp
  · have hne : ∀ j < 8, k ≠ j := by omega
    have hw1c : ¬ k ≤ 6 := by omega
    simp [hne, hw1c]

/-- CAUSE is bits 11:8 (10_state.md R33). -/
theorem Status.word_cause (st : Status) : st.word.extractLsb' 8 4 = st.cause := by
  refine BitVec.eq_of_getLsbD_eq fun i hi => ?_
  rw [BitVec.getLsbD_extractLsb', Status.word_getLsbD st (by omega)]
  interval_cases i <;> simp

/-- Bits 31:12 are 0 (10_state.md R34). -/
theorem Status.word_reserved (st : Status) : st.word.extractLsb' 12 20 = 0 := by
  refine BitVec.eq_of_getLsbD_eq fun i hi => ?_
  have hne : ∀ j < 12, 12 + i ≠ j := by omega
  rw [BitVec.getLsbD_extractLsb', Status.word_getLsbD st (by omega)]
  simp [hne]

theorem Memory.read_writeWord_lane {m : Memory} {k j : Nat} (w : Word) (h : m.wf = true) (hk : k < 16) (hj : j < 4) :
    (m.writeWord k w).read (4 * k + j) = lane w j := by
  have hlen : 4 * k + 4 ≤ Config.bufBytes := by simp only [Config.bufBytes]; omega
  rw [Memory.writeWord, Memory.read_writeBytes _ _ _ h hlen, if_pos (by simpa using hj), Nat.add_sub_cancel_left]
  interval_cases j <;> rfl

theorem Memory.read_writeWord_other {m : Memory} {k a : Nat} (w : Word) (h : m.wf = true) (hk : k < 16)
    (ha : a < 4 * k ∨ 4 * k + 4 ≤ a) : (m.writeWord k w).read a = m.read a := by
  have hlen : 4 * k + 4 ≤ Config.bufBytes := by simp only [Config.bufBytes]; omega
  rw [Memory.writeWord, Memory.read_writeBytes _ _ _ h hlen, if_neg (by simp; omega)]

/-- A BUF word reads as it was written (10_state.md R35). -/
theorem Memory.readWord_writeWord {m : Memory} {k : Nat} (w : Word) (h : m.wf = true) (hk : k < 16) :
    (m.writeWord k w).readWord k = w := by
  have hlane {j : Nat} (hj : j < 4) := Memory.read_writeWord_lane w h hk hj
  have h0 : (m.writeWord k w).read (4 * k) = lane w 0 := hlane (j := 0) (by decide)
  rw [Memory.readWord, h0, hlane (by decide), hlane (by decide), hlane (by decide), wordOfLanes_lane]

/-! ### The statements about one host access -/

/-- Settles O11: a write of CMD is accepted or dropped by BUSY. -/
theorem writingCmdIssuesOrOverruns : Obligations.WritingCmdIssuesOrOverruns := by
  intro s w rest hin
  exact ⟨fun hb => step_write hin hostReg_cmd (writeReg_cmd w hb),
    fun hb => step_write hin hostReg_cmd (writeReg_of_busy w rfl hb)⟩

/-- Settles O12: each of these offsets is a guarded register's. -/
theorem busyWritesAreDroppedAndFlagged : Obligations.BusyWritesAreDroppedAndFlagged := by
  intro s o v rest hin hb ho
  obtain ⟨r, hr, hguard⟩ : ∃ r, hostReg o 4 = some r ∧ r.guarded = true := by
    rcases ho with rfl | rfl | rfl | ⟨k, hk, rfl⟩
    · exact ⟨_, hostReg_cmd, rfl⟩
    · exact ⟨_, hostReg_opaLo, rfl⟩
    · exact ⟨_, hostReg_opaHi, rfl⟩
    · exact ⟨_, hostReg_of_buf hk, rfl⟩
  exact step_write hin hr (writeReg_of_busy v hguard hb)

/-- Settles O13, bit by bit. -/
theorem statusWriteClearsOnlyWrittenOnes : Obligations.StatusWriteClearsOnlyWrittenOnes := by
  intro s v rest hin
  exact ⟨_, step_write hin hostReg_status rfl, fun k => s.status.writeOneToClear_word_getLsbD v k.isLt, rfl⟩

/-- Settles O14; OPA is the concatenation of its halves. -/
theorem opaHalvesAreWrittenSeparately : Obligations.OpaHalvesAreWrittenSeparately := by
  refine ⟨fun s v rest hin hb => step_write hin hostReg_opaLo (writeReg_opaLo v hb),
    fun s v rest hin hb => step_write hin hostReg_opaHi (writeReg_opaHi v hb), fun s => ?_⟩
  rw [State.opa, BitVec.toNat_append, ← Nat.shiftLeft_add_eq_or_of_lt s.opaLo.isLt, Nat.shiftLeft_eq]

/-- Settles O15. -/
theorem bufWordHoldsItsFourBytes : Obligations.BufWordHoldsItsFourBytes := by
  intro s k v rest hk hwf hb hin
  obtain ⟨u, hu, hdata, -⟩ := step_read_buf
    (s := (s.next (.read (0x40 + 4 * k) 4 :: rest)).setBuf (s.buf.writeWord k v))
    hk rfl hb (Memory.readWord_writeWord v hwf hk)
  refine ⟨_, step_write hin (hostReg_of_buf hk) (writeReg_buf v k hb), fun j hj => ?_, fun a ha => ?_, rfl, u, hu, hdata⟩
  · exact Memory.read_writeWord_lane v hwf hk hj
  · exact Memory.read_writeWord_other v hwf hk ha

/-- Settles O16, register by register. -/
theorem hostReadsReturnTheRegisterMap : Obligations.HostReadsReturnTheRegisterMap := by
  intro s o rest hin v hv
  rcases hv with ⟨rfl, rfl⟩ | ⟨rfl, rfl⟩ | ⟨rfl, rfl⟩ | ⟨rfl, rfl⟩ | ⟨rfl, hb, rfl⟩ | ⟨hb, k, hk, rfl, rfl⟩
  · exact step_read hin hostReg_cmd rfl
  · exact step_read hin hostReg_status rfl
  · exact step_read hin hostReg_opaLo rfl
  · exact step_read hin hostReg_opaHi rfl
  · exact step_read hin hostReg_res (regValue_res_of_idle hb _)
  · exact step_read_buf hk hin hb rfl

/-- Settles O17: the read's value is whatever `regValue` gives. -/
theorem busyReadsChangeNothing : Obligations.BusyReadsChangeNothing := by
  intro s o rest hin _ ho
  obtain ⟨r, hr⟩ : ∃ r, hostReg o 4 = some r := by
    rcases ho with rfl | ⟨k, hk, rfl⟩
    · exact ⟨_, hostReg_res⟩
    · exact ⟨_, hostReg_of_buf hk⟩
  obtain ⟨t, ht⟩ := step_read hin hr rfl
  exact ⟨t, _, ht⟩

/-- Settles O18. -/
theorem reservedOffsetsReadZeroIgnoreWrites : Obligations.ReservedOffsetsReadZeroIgnoreWrites := by
  intro s o rest hlo hhi h4
  have hreg := hostReg_reserved hlo hhi h4
  exact ⟨fun hin => step_read hin hreg rfl, fun v hin => step_write hin hreg rfl⟩

/-- Settles O23: the flags bit by bit, then the two slices. -/
theorem statusWordLayout : Obligations.StatusWordLayout := by
  intro st
  refine ⟨?_, ?_, ?_, ?_, ?_, ?_, ?_, ?_, st.word_cause, st.word_reserved⟩ <;>
    · rw [Status.word_getLsbD st (by decide)]
      simp

end Sys2Proof.Machine
end

section
/-! What the engine leaves alone, and which step changes what: the host's side of the machine, the sticky bits, INIT. -/

namespace Sys2Proof.Machine

/-! ### The host's side (10_state.md R21, R22, R30) -/

/-- The registers that only the host writes, with OVR, which only a host write sets, and the parameters, which nothing writes. -/
structure SameHostRegs (s t : State) : Prop where
  params : t.params = s.params
  cmd : t.cmd = s.cmd
  opaLo : t.opaLo = s.opaLo
  opaHi : t.opaHi = s.opaHi
  ovr : t.status.ovr = s.status.ovr

/-- The same, with the model's record of the host: nothing that the engine does changes any of it. -/
structure SameHostSide (s t : State) : Prop extends SameHostRegs s t where
  inputs : t.inputs = s.inputs
  rdata : t.rdata = s.rdata
  readDraws : t.readDraws = s.readDraws

theorem SameHostSide.refl (s : State) : SameHostSide s s := ⟨⟨rfl, rfl, rfl, rfl, rfl⟩, rfl, rfl, rfl⟩

theorem SameHostSide.trans {s t u : State} (h : SameHostSide s t) (h' : SameHostSide t u) : SameHostSide s u :=
  ⟨⟨h'.params.trans h.params, h'.cmd.trans h.cmd, h'.opaLo.trans h.opaLo, h'.opaHi.trans h.opaHi, h'.ovr.trans h.ovr⟩,
    h'.inputs.trans h.inputs, h'.rdata.trans h.rdata, h'.readDraws.trans h.readDraws⟩

theorem SameOperands.hostSide {s t : State} (h : SameOperands s t) : SameHostSide s t :=
  ⟨⟨h.params, h.cmd, h.opaLo, h.opaHi, h.ovr⟩, h.inputs, h.rdata, h.readDraws⟩

theorem SameOperands.setRes_start (s : State) (v : Word) (evs : List Event) (todo : List Txn) :
    SameOperands s ((s.setRes v).start evs todo) := ⟨rfl, rfl, rfl, rfl, rfl, rfl, rfl, rfl, rfl, rfl⟩

/-- A plan but BUS_INIT's touches only RES and ENG. -/
theorem plan_sameOperands {i : Instr} (s : State) (hi : i ≠ .busInit) : SameOperands s (plan i s) := by
  rcases plan_cases i s with ⟨-, -, hp⟩ | ⟨evs, -, -, v, hp⟩ | ⟨rfl, -⟩ | ⟨evs, todo, v, -, -, -, -, -, hp⟩
  · rw [hp]; exact .setRes_start s s.res _ _
  · rw [hp]; exact .setRes_start s v _ _
  · exact absurd rfl hi
  · rw [hp]; exact .setRes_start s v _ _

@[simp] theorem configureBus_res (s : State) : s.configureBus.res = s.res := by
  unfold State.configureBus
  split <;> rfl

@[simp] theorem configureBus_buf (s : State) : s.configureBus.buf = s.buf := by
  unfold State.configureBus
  split <;> rfl

theorem configureBus_sel {s : State} (h : s.sel = none) : s.configureBus.sel = none := by
  unfold State.configureBus
  split
  · exact h
  · rfl

theorem configureBus_sameHostSide (s : State) : SameHostSide s s.configureBus := by
  unfold State.configureBus
  split
  · exact .refl s
  · exact ⟨⟨rfl, rfl, rfl, rfl, rfl⟩, rfl, rfl, rfl⟩

theorem plan_sameHostSide (i : Instr) (s : State) : SameHostSide s (plan i s) := by
  by_cases hi : i = .busInit
  · subst hi
    exact (configureBus_sameHostSide s).trans (SameOperands.setRes_start _ s.configureBus.res [] []).hostSide
  · exact (plan_sameOperands s hi).hostSide

/-- Running a plan to its end leaves alone what the plan has left alone. -/
theorem plan_finish_sameOperands (i : Instr) (s : State) : SameOperands (plan i s) (plan i s).finish := by
  obtain ⟨todo, evs, -, hf⟩ := plan_eng i s
  rw [hf]
  exact State.runTxns_sameOperands todo 0 evs _

theorem plan_finish_sameHostSide (i : Instr) (s : State) : SameHostSide s (plan i s).finish :=
  (plan_sameHostSide i s).trans (plan_finish_sameOperands i s).hostSide

theorem runEngine_sameHostSide {s t : State} (h : s.runEngine = .next t) : SameHostSide s t := by
  rcases runEngine_cases h with ⟨-, rfl⟩ | ⟨-, -, rfl⟩ | ⟨i, -, -, rfl⟩ | ⟨f, -, rfl⟩
  · exact .refl t
  · exact (SameOperands.complete _ s).hostSide
  · exact plan_finish_sameHostSide i s
  · exact (State.runTxns_sameOperands _ _ _ s).hostSide

theorem begin_sameHostSide (s : State) : SameHostSide s s.begin := by
  rcases begin_cases s with ⟨_, -, hb⟩ | ⟨i, -, ⟨_, _, _, -, hb, -⟩ | ⟨evs, -, hb⟩⟩ <;> rw [hb]
  · exact (SameOperands.complete _ s).hostSide
  · exact plan_sameHostSide i s
  · exact (plan_sameHostSide i s).trans (SameOperands.complete evs _).hostSide

theorem transferPhase_sameOperands (t : Txn) (ts : List Txn) (f : Flight) (s : State) :
    SameOperands s (s.transferPhase t ts f) := by
  obtain ⟨g, e, hg, -, -, hsame, -⟩ := transferPhase_cases t ts f s
  rw [hg]
  exact hsame.trans ⟨rfl, rfl, rfl, rfl, rfl, rfl, rfl, rfl, rfl, rfl⟩

theorem phase_sameHostSide (s : State) : SameHostSide s s.phase := by
  rcases phase_cases s with ⟨-, hp⟩ | ⟨-, hp⟩ | ⟨f, -, -, hp⟩ | ⟨f, t, ts, -, -, -, hp⟩ | ⟨f, t, ts, _, -, -, -, hp⟩ <;> rw [hp]
  · exact .refl s
  · exact begin_sameHostSide s
  · exact (SameOperands.complete _ s).hostSide
  · exact ⟨⟨rfl, rfl, rfl, rfl, rfl⟩, rfl, rfl, rfl⟩
  · exact (transferPhase_sameOperands t ts f s).hostSide

/-! ### The host's writes -/

/-- What a host write changes: CMD and each half of OPA by their own write alone, OVR by a dropped one. -/
structure HostWriteFrame (v : Word) (r : HostReg) (s t : State) : Prop where
  params : t.params = s.params
  res : t.res = s.res
  init : t.status.init = s.status.init
  cmd : t.cmd = s.cmd ∨ (r = .cmd ∧ s.status.busy = false ∧ t.cmd = v)
  opaLo : t.opaLo = s.opaLo ∨ (r = .opaLo ∧ s.status.busy = false ∧ t.opaLo = v)
  opaHi : t.opaHi = s.opaHi ∨ (r = .opaHi ∧ s.status.busy = false ∧ t.opaHi = v)
  ovr : t.status.ovr = true → s.status.ovr = true ∨ (r.guarded = true ∧ s.status.busy = true)

theorem writeReg_frame (s : State) (v : Word) (r : HostReg) : HostWriteFrame v r s (s.writeReg v r) := by
  rcases writeReg_cases s v r with ⟨hb, hr, hw⟩ | ⟨hb, hr, hw⟩ | ⟨hb, hr, hw⟩ | ⟨hb, hr, hw⟩ | ⟨_, -, hw⟩ | ⟨-, hw⟩ | hw <;>
    rw [hw]
  · exact ⟨rfl, rfl, rfl, .inl rfl, .inl rfl, .inl rfl, fun _ => .inr ⟨hr, hb⟩⟩
  · exact ⟨rfl, rfl, rfl, .inr ⟨hr, hb, rfl⟩, .inl rfl, .inl rfl, .inl⟩
  · exact ⟨rfl, rfl, rfl, .inl rfl, .inr ⟨hr, hb, rfl⟩, .inl rfl, .inl⟩
  · exact ⟨rfl, rfl, rfl, .inl rfl, .inl rfl, .inr ⟨hr, hb, rfl⟩, .inl⟩
  · exact ⟨rfl, rfl, rfl, .inl rfl, .inl rfl, .inl rfl, .inl⟩
  · exact ⟨rfl, rfl, rfl, .inl rfl, .inl rfl, .inl rfl, by simp +contextual⟩
  · exact ⟨rfl, rfl, rfl, .inl rfl, .inl rfl, .inl rfl, .inl⟩

theorem offset_of_cmd {o n : Nat} (h : hostReg o n = some .cmd) : o = 0x00 := by simpa using (hostReg_cases h).2
theorem offset_of_status {o n : Nat} (h : hostReg o n = some .status) : o = 0x04 := by simpa using (hostReg_cases h).2
theorem offset_of_opaLo {o n : Nat} (h : hostReg o n = some .opaLo) : o = 0x08 := by simpa using (hostReg_cases h).2
theorem offset_of_opaHi {o n : Nat} (h : hostReg o n = some .opaHi) : o = 0x0C := by simpa using (hostReg_cases h).2

/-- Where the guarded registers are (10_state.md R30). -/
theorem offset_of_guarded {o n : Nat} {r : HostReg} (h : hostReg o n = some r) (hr : r.guarded = true) :
    o = 0x00 ∨ o = 0x08 ∨ o = 0x0C ∨ ∃ k < 16, o = 0x40 + 4 * k := by
  rcases (hostReg_cases h).2 with ⟨-, ho⟩ | ⟨rfl, -⟩ | ⟨-, ho⟩ | ⟨-, ho⟩ | ⟨rfl, -⟩ | rfl | ⟨k, hk, -, ho⟩
  · exact .inl ho
  · cases hr
  · exact .inr (.inl ho)
  · exact .inr (.inr (.inl ho))
  · cases hr
  · cases hr
  · exact .inr (.inr (.inr ⟨k, hk, ho⟩))

/-! ### Host accesses, from the step they are -/

theorem step_read_cases {s t : State} {o n : Nat} {rest : List Input} (hin : s.inputs = .read o n :: rest)
    (h : step s = .next t) : ∃ v, t = (s.next rest).returned v := by
  simp only [step, hin] at h
  obtain ⟨r, -, ht⟩ := hostRead_cases h
  exact ⟨_, ht⟩

theorem step_write_cases {s t : State} {o n : Nat} {v : Word} {rest : List Input} (hin : s.inputs = .write o n v :: rest)
    (h : step s = .next t) : n = 4 ∧ ∃ r, hostReg o 4 = some r ∧ t = (s.next rest).writeReg v r := by
  simp only [step, hin] at h
  obtain ⟨r, hr, ht⟩ := hostWrite_cases h
  obtain ⟨rfl, -⟩ := hostReg_cases hr
  exact ⟨rfl, r, hr, ht⟩

/-- A step that is neither a reset nor a host write changes none of the host's registers. -/
theorem step_sameHostRegs {s t : State} (h : step s = .next t) (hreset : ∀ rest, s.inputs ≠ .reset :: rest)
    (hwrite : ∀ o n v rest, s.inputs ≠ .write o n v :: rest) : SameHostRegs s t := by
  rcases step_cases h with ⟨-, hr⟩ | ⟨o, n, rest, -, hr⟩ | ⟨o, n, v, rest, hin, -⟩ | ⟨rest, -, -, hr⟩ |
    ⟨rest, -, -, rfl⟩ | ⟨rest, hin, -⟩ | ⟨rest, -, rfl⟩
  · exact (runEngine_sameHostSide hr).toSameHostRegs
  · obtain ⟨r, -, rfl⟩ := hostRead_cases hr
    exact ⟨rfl, rfl, rfl, rfl, rfl⟩
  · exact absurd hin (hwrite o n v rest)
  · exact (runEngine_sameHostSide hr).toSameHostRegs
  · exact ⟨rfl, rfl, rfl, rfl, rfl⟩
  · exact absurd hin (hreset rest)
  · have hsame := phase_sameHostSide (s.next rest)
    exact ⟨hsame.params, hsame.cmd, hsame.opaLo, hsame.opaHi, hsame.ovr⟩

/-- Settles O27: a host write by its frame, any other step by leaving the host's registers alone. -/
theorem hostWritesCmdAndOpaEngineWritesRes : Obligations.HostWritesCmdAndOpaEngineWritesRes := by
  intro s t hstep hreset
  by_cases hwrite : ∃ o n v rest, s.inputs = .write o n v :: rest
  · obtain ⟨o, n, v, rest, hin⟩ := hwrite
    obtain ⟨rfl, r, hr, rfl⟩ := step_write_cases hin hstep
    have hframe := writeReg_frame (s.next rest) v r
    refine ⟨?_, ?_, ?_, ?_, fun _ => hframe.res, ?_, hframe.params⟩
    · exact hframe.cmd.imp id fun ⟨hw, hb, hv⟩ => ⟨v, rest, offset_of_cmd (hw ▸ hr) ▸ hin, hb, hv⟩
    · exact hframe.opaLo.imp id fun ⟨hw, hb, hv⟩ => ⟨v, rest, offset_of_opaLo (hw ▸ hr) ▸ hin, hb, hv⟩
    · exact hframe.opaHi.imp id fun ⟨hw, hb, hv⟩ => ⟨v, rest, offset_of_opaHi (hw ▸ hr) ▸ hin, hb, hv⟩
    · exact fun hovr => (hframe.ovr hovr).imp id fun ⟨hg, hb⟩ => ⟨o, v, rest, hin, hb, offset_of_guarded hr hg⟩
    · intro v' rest' hin'
      cases hin.symm.trans hin'
      cases hr
      rfl
  · have hnot : ∀ o n v rest, s.inputs ≠ .write o n v :: rest := fun o n v rest hin => hwrite ⟨o, n, v, rest, hin⟩
    have hsame := step_sameHostRegs hstep hreset hnot
    refine ⟨.inl hsame.cmd, .inl hsame.opaLo, .inl hsame.opaHi, fun hovr => .inl (hsame.ovr ▸ hovr), ?_,
      fun v rest hin => absurd hin (hnot _ _ _ _), hsame.params⟩
    rintro ⟨o, n, rest, hin | ⟨v, hin⟩⟩
    · obtain ⟨w, rfl⟩ := step_read_cases hin hstep
      rfl
    · exact absurd hin (hnot _ _ _ _)

/-! ### The sticky bits (10_state.md R27 to R31) -/

/-- No sticky bit of the first STATUS is clear in the second. -/
structure Status.StickyLe (st st' : Status) : Prop where
  timeout : st.timeout = true → st'.timeout = true
  clamp : st.clamp = true → st'.clamp = true
  illegal : st.illegal = true → st'.illegal = true
  ovr : st.ovr = true → st'.ovr = true
  noinit : st.noinit = true → st'.noinit = true

theorem Status.StickyLe.refl (st : Status) : st.StickyLe st := ⟨id, id, id, id, id⟩

theorem Status.StickyLe.trans {a b c : Status} (h : a.StickyLe b) (h' : b.StickyLe c) : a.StickyLe c :=
  ⟨h'.timeout ∘ h.timeout, h'.clamp ∘ h.clamp, h'.illegal ∘ h.illegal, h'.ovr ∘ h.ovr, h'.noinit ∘ h.noinit⟩

theorem Status.stickyLe_complete (st : Status) (evs : List Event) : st.StickyLe (st.complete evs) := by
  constructor <;> simp +contextual

theorem plan_stickyLe (i : Instr) (s : State) : s.status.StickyLe (plan i s).status := by
  rcases plan_status i s with hp | ⟨-, -, hp⟩ <;> rw [hp]
  · exact .refl _
  · exact ⟨id, id, id, id, id⟩

theorem runTxns_stickyLe (todo : List Txn) (held : Byte) (evs : List Event) (s : State) :
    s.status.StickyLe (s.runTxns todo held evs).status := by
  obtain ⟨htimeout, hclamp, hillegal, hnoinit⟩ := State.runTxns_sticky todo held evs s
  have hovr := (State.runTxns_sameOperands todo held evs s).ovr
  exact ⟨htimeout, hclamp, hillegal, fun h => hovr.trans h, hnoinit⟩

theorem runEngine_stickyLe {s t : State} (h : s.runEngine = .next t) : s.status.StickyLe t.status := by
  rcases runEngine_cases h with ⟨-, rfl⟩ | ⟨-, -, rfl⟩ | ⟨i, -, -, rfl⟩ | ⟨f, -, rfl⟩
  · exact .refl _
  · exact s.status.stickyLe_complete _
  · obtain ⟨todo, evs, -, hf⟩ := plan_eng i s
    rw [hf]
    exact (plan_stickyLe i s).trans (runTxns_stickyLe _ _ _ _)
  · exact runTxns_stickyLe _ _ _ s

theorem begin_stickyLe (s : State) : s.status.StickyLe s.begin.status := by
  rcases begin_cases s with ⟨_, -, hb⟩ | ⟨i, -, ⟨_, _, _, -, hb, -⟩ | ⟨evs, -, hb⟩⟩ <;> rw [hb]
  · exact s.status.stickyLe_complete _
  · exact plan_stickyLe i s
  · exact (plan_stickyLe i s).trans (Status.stickyLe_complete _ evs)

theorem phase_stickyLe (s : State) : s.status.StickyLe s.phase.status := by
  rcases phase_cases s with ⟨-, hp⟩ | ⟨-, hp⟩ | ⟨f, -, -, hp⟩ | ⟨f, t, ts, -, -, -, hp⟩ | ⟨f, t, ts, _, -, -, -, hp⟩ <;> rw [hp]
  · exact .refl _
  · exact begin_stickyLe s
  · exact s.status.stickyLe_complete _
  · exact .refl _
  · obtain ⟨g, e, hg, -, hst, -, -⟩ := transferPhase_cases t ts f s
    rw [hg, State.setEng_status, hst]
    exact .refl _

/-- Only a write of STATUS itself can clear a sticky bit. -/
theorem writeReg_stickyLe (s : State) (v : Word) {r : HostReg} (hr : r ≠ .status) :
    s.status.StickyLe (s.writeReg v r).status := by
  rcases writeReg_cases s v r with ⟨-, -, hw⟩ | ⟨-, -, hw⟩ | ⟨-, -, hw⟩ | ⟨-, -, hw⟩ | ⟨_, -, hw⟩ | ⟨hst, -⟩ | hw
  case inr.inr.inr.inr.inr.inl => exact absurd hst hr
  case inl => rw [hw]; exact ⟨id, id, id, fun _ => rfl, id⟩
  all_goals rw [hw]; exact ⟨id, id, id, id, id⟩

/-- A step that is neither a reset nor a write of STATUS clears no sticky bit. -/
theorem step_stickyLe {s t : State} (h : step s = .next t) (hreset : ∀ rest, s.inputs ≠ .reset :: rest)
    (hwrite : ∀ v rest, s.inputs ≠ .write 0x04 4 v :: rest) : s.status.StickyLe t.status := by
  rcases step_cases h with ⟨-, hr⟩ | ⟨o, n, rest, -, hr⟩ | ⟨o, n, v, rest, hin, hw⟩ | ⟨rest, -, -, hr⟩ |
    ⟨rest, -, -, rfl⟩ | ⟨rest, hin, -⟩ | ⟨rest, -, rfl⟩
  · exact runEngine_stickyLe hr
  · obtain ⟨r, -, rfl⟩ := hostRead_cases hr
    exact .refl _
  · obtain ⟨r, hreg, rfl⟩ := hostWrite_cases hw
    refine writeReg_stickyLe (s.next rest) v fun hst => ?_
    obtain ⟨rfl, -⟩ := hostReg_cases hreg
    exact hwrite v rest (offset_of_status (hst ▸ hreg) ▸ hin)
  · exact runEngine_stickyLe hr
  · exact .refl _
  · exact absurd hin (hreset rest)
  · exact phase_stickyLe (s.next rest)

/-- A W1C bit written with a bit of v. -/
theorem stays_or_written {b w : Bool} (hb : b = true) : (b && !w) = true ∨ w = true := by
  cases w <;> simp [hb]

/-- Settles O25: a write of STATUS bit by bit, any other step by `step_stickyLe`. -/
theorem stickyBitsAreClearedOnlyFromOutside : Obligations.StickyBitsAreClearedOnlyFromOutside := by
  intro s t hstep
  refine or_iff_not_imp_left.2 fun hreset => ?_
  by_cases hwrite : ∃ v rest, s.inputs = .write 0x04 4 v :: rest
  · obtain ⟨v, rest, hin⟩ := hwrite
    obtain ⟨-, r, hr, rfl⟩ := step_write_cases hin hstep
    cases hr
    refine ⟨fun h => ?_, fun h => ?_, fun h => ?_, fun h => ?_, fun h => ?_⟩ <;>
      exact (stays_or_written h).imp id fun hv => ⟨v, rest, hin, hv⟩
  · have hle := step_stickyLe hstep (fun rest hin => hreset ⟨rest, hin⟩) (fun v rest hin => hwrite ⟨v, rest, hin⟩)
    exact ⟨.inl ∘ hle.timeout, .inl ∘ hle.clamp, .inl ∘ hle.illegal, .inl ∘ hle.ovr, .inl ∘ hle.noinit⟩

/-! ### INIT (10_state.md R32) -/

/-- The step completes a BUS_INIT. -/
def BusInitCompletes (s t : State) : Prop :=
  s.eng = .accepted ∧ decode s.cmd = .ok .busInit ∧ t.eng = .idle ∧ t.status.done = true ∧ t.status.init = true

/-- A plan sets INIT or leaves it alone. -/
theorem plan_init_cases (i : Instr) (s : State) :
    (plan i s).status.init = s.status.init ∨ (i = .busInit ∧ (plan i s).status.init = true) := by
  rcases plan_status i s with hp | ⟨hi, -, hp⟩ <;> rw [hp]
  · exact .inl rfl
  · exact .inr ⟨hi, rfl⟩

theorem plan_finish_ends (i : Instr) (s : State) : (plan i s).finish.eng = .idle ∧ (plan i s).finish.sel = none ∧
    (plan i s).finish.status.busy = false ∧ (plan i s).finish.status.done = true := by
  obtain ⟨todo, evs, -, hf⟩ := plan_eng i s
  rw [hf]
  exact State.runTxns_ends todo 0 evs _

theorem runEngine_init {s t : State} (h : s.runEngine = .next t) :
    t.status.init = s.status.init ∨ BusInitCompletes s t := by
  rcases runEngine_cases h with ⟨-, rfl⟩ | ⟨-, -, rfl⟩ | ⟨i, he, hd, rfl⟩ | ⟨f, -, rfl⟩
  · exact .inl rfl
  · exact .inl rfl
  · have hinit := (plan_finish_sameOperands i s).init
    obtain ⟨hidle, -, -, hdone⟩ := plan_finish_ends i s
    refine (plan_init_cases i s).imp hinit.trans fun ⟨hi, hp⟩ => ?_
    exact ⟨he, hi ▸ hd, hidle, hdone, hinit.trans hp⟩
  · exact .inl (State.runTxns_sameOperands _ _ _ s).init

theorem begin_init {s : State} (he : s.eng = .accepted) :
    s.begin.status.init = s.status.init ∨ BusInitCompletes s s.begin := by
  rcases begin_cases s with ⟨_, -, hb⟩ | ⟨i, hd, ⟨_, _, _, -, hb, hst⟩ | ⟨evs, -, hb⟩⟩ <;> rw [hb]
  · exact .inl rfl
  · exact .inl (congrArg _ hst)
  · exact (plan_init_cases i s).imp id fun ⟨hi, hp⟩ => ⟨he, hi ▸ hd, rfl, rfl, hp⟩

theorem phase_init (s : State) : s.phase.status.init = s.status.init ∨ BusInitCompletes s s.phase := by
  rcases phase_cases s with ⟨-, hp⟩ | ⟨he, hp⟩ | ⟨f, -, -, hp⟩ | ⟨f, t, ts, -, -, -, hp⟩ | ⟨f, t, ts, _, -, -, -, hp⟩ <;> rw [hp]
  · exact .inl rfl
  · exact begin_init he
  · exact .inl rfl
  · exact .inl rfl
  · exact .inl (transferPhase_sameOperands t ts f s).init

/-- INIT changes only in a completing BUS_INIT and in reset. -/
theorem step_init {s t : State} (h : step s = .next t) :
    t.status.init = s.status.init ∨ BusInitCompletes s t ∨ ∃ rest, s.inputs = .reset :: rest ∧ t.status.init = false := by
  rcases step_cases h with ⟨-, hr⟩ | ⟨o, n, rest, -, hr⟩ | ⟨o, n, v, rest, -, hw⟩ | ⟨rest, -, -, hr⟩ |
    ⟨rest, -, -, rfl⟩ | ⟨rest, hin, rfl⟩ | ⟨rest, -, rfl⟩
  · exact (runEngine_init hr).imp id .inl
  · obtain ⟨r, -, rfl⟩ := hostRead_cases hr
    exact .inl rfl
  · obtain ⟨r, -, rfl⟩ := hostWrite_cases hw
    exact .inl (writeReg_frame _ v r).init
  · exact (runEngine_init hr).imp id .inl
  · exact .inl rfl
  · exact .inr (.inr ⟨rest, hin, rfl⟩)
  · exact (phase_init (s.next rest)).imp id .inl

/-- Settles O26: INIT rises in a BUS_INIT alone and falls in a reset alone. -/
theorem initIsSetByBusInitAndClearedByReset : Obligations.InitIsSetByBusInitAndClearedByReset := by
  intro s t hstep
  rcases step_init hstep with hsame | ⟨he, hd, hidle, hdone, hset⟩ | ⟨rest, hin, hclear⟩
  · exact ⟨fun h0 h1 => by simp [hsame, h0] at h1, fun h1 h0 => by simp [hsame, h1] at h0⟩
  · exact ⟨fun _ _ => ⟨he, hd, hidle, hdone⟩, fun _ h0 => by simp [hset] at h0⟩
  · exact ⟨fun _ h1 => by simp [hclear] at h1, fun _ _ => ⟨rest, hin⟩⟩

/-! ### The frame of every command (10_state.md R22, R23, R35) -/

theorem plan_buf (i : Instr) (s : State) : (plan i s).buf = s.buf := by
  rcases plan_cases i s with ⟨-, -, hp⟩ | ⟨_, -, -, _, hp⟩ | ⟨-, hp⟩ | ⟨_, _, _, -, -, -, -, -, hp⟩ <;> rw [hp]
  case inr.inr.inl => exact configureBus_buf s
  all_goals rfl

theorem todo_of_not_usesBus {i : Instr} {s : State} {f : Flight} (hb : i.usesBus = false) (h : (plan i s).eng = .running f) :
    f.todo = [] := by
  rcases plan_cases i s with ⟨hb', -, -⟩ | ⟨_, -, -, _, hp⟩ | ⟨-, hp⟩ | ⟨_, _, _, hb', -, -, -, -, -⟩
  · simp [hb] at hb'
  · rw [hp] at h; cases h; rfl
  · rw [hp] at h; cases h; rfl
  · simp [hb] at hb'

/-- The bus check starts the given transactions or none (40_bus.md R104). -/
theorem todo_of_onBus {s u : State} {evs : List Event} {todo : List Txn} {f : Flight}
    (h : (s.onBus (u.start evs todo)).eng = .running f) : f.todo = todo ∨ f.todo = [] := by
  unfold State.onBus at h
  split at h <;> cases h
  · exact .inl rfl
  · exact .inr rfl

theorem onBus_start_res (s : State) (evs : List Event) (todo : List Txn) : (s.onBus (s.start evs todo)).res = s.res := by
  unfold State.onBus
  split <;> rfl

/-- Only RD_BURST has a transaction that writes BUF (40_bus.md R111). -/
theorem after_ne_burstToBuf {i : Instr} {s : State} {f : Flight} (hi : ∀ c a n, i ≠ .rdBurst c a n)
    (h : (plan i s).eng = .running f) : ∀ t ∈ f.todo, t.after ≠ .burstToBuf := by
  cases i
  case nop | busInit | fdec | fenc | freqEnc | drateEnc | devEnc | bwEnc | chspEnc => simp [todo_of_not_usesBus rfl h]
  case rdBurst c a n => exact absurd rfl (hi c a n)
  all_goals rcases todo_of_onBus h with hf | hf <;> simp [hf, liveReadOrZero, liveRead, liveWrite, liveWriteHeld]

/-- NOP, BUS_INIT, writes and strobes have nothing to put into RES, not even on Timeout (40_bus.md R105 to R112). -/
theorem quiet_of_writeOrStrobe {i : Instr} {s : State} {f : Flight}
    (hi : i = .nop ∨ i = .busInit ∨ (∃ c a d, i = .wrReg c a d) ∨ (∃ c a n, i = .wrBurst c a n) ∨ ∃ c a, i = .strobe c a)
    (h : (plan i s).eng = .running f) :
    (plan i s).res = s.res ∧ ∀ t ∈ f.todo, t.after = .nothing ∧ t.zeroResOnTimeout = false := by
  rcases hi with rfl | rfl | ⟨c, a, d, rfl⟩ | ⟨c, a, n, rfl⟩ | ⟨c, a, rfl⟩
  · exact ⟨rfl, by simp [todo_of_not_usesBus rfl h]⟩
  · exact ⟨configureBus_res s, by simp [todo_of_not_usesBus rfl h]⟩
  all_goals exact ⟨onBus_start_res s _ _, by rcases todo_of_onBus h with hf | hf <;> simp [hf]⟩

/-- Settles O33: the plan's frame, then the frame of running its transactions. -/
theorem commandFrame : Obligations.CommandFrame := by
  intro i s t h
  rw [exec_eq_plan] at h
  cases h
  have hside := plan_finish_sameHostSide i s
  obtain ⟨hidle, hsel, hbusy, hdone⟩ := plan_finish_ends i s
  obtain ⟨todo, evs, he, hf⟩ := plan_eng i s
  refine ⟨hside.cmd, hside.opaLo, hside.opaHi, hside.ovr, hside.inputs, hside.rdata, hside.readDraws, hside.params,
    hidle, hsel, hdone, hbusy, fun hi => ?_, fun hi => ?_, fun hi k => ?_⟩
  · have hsame := (plan_sameOperands s hi).trans (plan_finish_sameOperands i s)
    exact ⟨hsame.init, hsame.lines⟩
  · obtain ⟨hres, hquiet⟩ := quiet_of_writeOrStrobe hi he
    rw [hf, State.runTxns_res _ _ _ _ hquiet, hres]
  · rw [hf, State.runTxns_buf _ _ _ _ (after_ne_burstToBuf hi he), plan_buf]

/-! ### The engine's step (10_state.md R21, R38) -/

/-- Settles O6: the engine's own step. -/
theorem stepRunsTheDecodedCommand : Obligations.StepRunsTheDecodedCommand := by
  intro s i he hd
  have hrun : s.runEngine = exec i s := by simp only [State.runEngine, he, hd]
  refine ⟨fun hin => ?_, fun rest hin hb => ?_⟩
  · simp only [step, hin, hrun]
  · simp only [step, hin, State.poll, hb, if_true, hrun]

end Sys2Proof.Machine
end

section
/-! SUPPORT. A decoded word stands for a well-formed command (30_encoding.md R72, R74). -/

namespace Sys2Proof

theorem Instr.wf_of_map_eq_ok {ε α : Type} {x : Except ε α} {f : α → Instr} {i : Instr} (h : x.map f = .ok i)
    (hf : ∀ a, x = .ok a → (f a).wf = true) : i.wf = true := by
  cases x with
  | error e => cases h
  | ok a => cases h; exact hf a rfl

theorem Instr.wf_of_bind_eq_ok {ε α : Type} {x : Except ε α} {f : α → Except ε Instr} {i : Instr} (h : x.bind f = .ok i)
    (hf : ∀ a, f a = .ok i → i.wf = true) : i.wf = true := by
  cases x with
  | error e => cases h
  | ok a => exact hf a h

/-- LEN + 1 is a burst length, and R74 step 3 checks FID; no other operand can be out of range. -/
theorem wf_of_decodeOperands {o : Opcode} {w : Word} {i : Instr} (h : decodeOperands o w = .ok i) : i.wf = true := by
  cases o
  case nop | busInit | freqEnc | drateEnc | devEnc | bwEnc | chspEnc => cases h; rfl
  case wrBurst | rdBurst => exact Instr.wf_of_map_eq_ok h fun _ _ => burstLenOk_burstLen w
  case decomp => exact Instr.wf_of_bind_eq_ok h fun _ h => Instr.wf_of_map_eq_ok h fun _ _ => rfl
  case fget | fset =>
    exact Instr.wf_of_bind_eq_ok h fun _ h => Instr.wf_of_bind_eq_ok h fun _ h =>
      Instr.wf_of_map_eq_ok h fun _ hfid => (of_fidOfBits hfid).1
  all_goals exact Instr.wf_of_map_eq_ok h fun _ _ => rfl

theorem wf_of_decode {w : Word} {i : Instr} (h : decode w = .ok i) : i.wf = true := by
  unfold decode at h
  split at h
  · cases h
  · split at h
    · exact wf_of_decodeOperands h
    · cases h

end Sys2Proof
end

section
/-! The invariant of every step (State.Inv). What it says of BUF, INIT, the lines and the bus history is kept by every piece of
a command, also between two phases where BUSY and ENG are not looked at; `State.Sound` names that part. The completion step
turns it into the whole invariant. -/

namespace Sys2Proof.Machine

/-- The part of the invariant that does not speak of ENG, SEL or the reports in STATUS. -/
structure State.Sound (s : State) : Prop where
  bufWf : s.buf.wf = true
  initIffLines : s.status.init = true ↔ s.lines = .idle
  historyOk : ∀ e ∈ s.history, BusEventOk e
  historyAfterInit : s.history ≠ [] → s.status.init = true

theorem State.Inv.sound {s : State} (h : s.Inv) : s.Sound :=
  ⟨h.bufWf, h.initIffLines, h.historyOk, h.historyAfterInit⟩

/-- A selected chip is a running command's. -/
theorem State.Inv.sel_eq_none {s : State} (h : s.Inv) (he : ∀ f, s.eng ≠ .running f) : s.sel = none := by
  cases hs : s.sel with
  | none => rfl
  | some c =>
    obtain ⟨f, _, _, hf, -⟩ := h.selIsCurrent c hs
    exact absurd hf (he f)

theorem State.Inv.eng_eq_idle {s : State} (h : s.Inv) (hb : s.status.busy = false) : s.eng = .idle :=
  not_not.1 fun he => by simp [h.busyIffExec.2 he] at hb

/-! ### Sound is kept -/

/-- The sound part is about BUF, INIT, the lines and the history alone. -/
theorem State.Sound.congr {s t : State} (h : s.Sound) (hb : t.buf = s.buf) (hi : t.status.init = s.status.init)
    (hl : t.lines = s.lines) (hh : t.history = s.history) : t.Sound :=
  ⟨hb ▸ h.bufWf, by rw [hi, hl]; exact h.initIffLines, hh ▸ h.historyOk, by rw [hi, hh]; exact h.historyAfterInit⟩

theorem State.Sound.setBuf {s : State} {m : Memory} (h : s.Sound) (hm : m.wf = true) : (s.setBuf m).Sound :=
  ⟨hm, h.initIffLines, h.historyOk, h.historyAfterInit⟩

/-- BUS_INIT sets INIT and the lines together (40_bus.md R107). -/
theorem State.Sound.configureBus {s : State} (h : s.Sound) : s.configureBus.Sound := by
  unfold State.configureBus
  split
  · exact h
  · exact ⟨h.bufWf, by simp, h.historyOk, fun _ => rfl⟩

theorem State.Sound.plan {s : State} (h : s.Sound) (i : Instr) : (plan i s).Sound := by
  rcases plan_cases i s with ⟨-, -, hp⟩ | ⟨_, -, -, _, hp⟩ | ⟨-, hp⟩ | ⟨_, _, _, -, -, -, -, -, hp⟩ <;> rw [hp]
  · exact h.congr rfl rfl rfl rfl
  · exact h.congr rfl rfl rfl rfl
  · exact h.configureBus.congr rfl rfl rfl rfl
  · exact h.congr rfl rfl rfl rfl

/-- Recording a transaction, with the bus initialised. -/
theorem State.Sound.afterXfer {s : State} {e : BusEvent} (h : s.Sound) (hi : s.status.init = true) (he : BusEventOk e) :
    (s.afterXfer e).Sound := by
  refine ⟨h.bufWf, h.initIffLines, fun e' he' => ?_, fun _ => hi⟩
  rcases List.mem_append.1 he' with hold | hnew
  · exact h.historyOk e' hold
  · rwa [List.mem_singleton.1 hnew]

theorem State.Sound.onTimeout {s : State} (h : s.Sound) (t : Txn) : (t.onTimeout s).Sound := by
  have same := SameOperands.onTimeout t s
  exact h.congr (by simp) same.init same.lines (by simp)

/-- What a command does with at most 64 received bytes: only a burst read writes BUF. -/
theorem State.Sound.apply {s : State} (h : s.Sound) (a : After) {bs : List Byte} (hl : bs.length ≤ Config.maxBurst) :
    (a.apply bs s).Sound := by
  cases a
  case burstToBuf =>
    exact (h.setBuf (Memory.writeBytes_wf bs h.bufWf (by simpa using hl))).congr rfl rfl rfl rfl
  all_goals exact h.congr rfl rfl rfl rfl

/-- A transaction receives at most its data bytes. -/
theorem Txn.received_length_le {t : Txn} (h : t.dataBytes ≤ Config.maxBurst) (s : State) (out : List Byte) :
    (s.received t.chip t.hdr out t.nin).length ≤ Config.maxBurst := by
  rw [State.received_length]
  exact le_trans (Nat.le_add_left _ _) h

theorem busEventOk_timeout (c : Chip) (hdr : Byte) : BusEventOk ⟨c, hdr, [], [], .timeout⟩ := ⟨by simp, fun _ => ⟨rfl, rfl⟩⟩

/-- A transaction that timed out, and what the command then writes. -/
theorem State.Sound.timedOut {s : State} (h : s.Sound) (hi : s.status.init = true) (t : Txn) :
    (t.onTimeout (s.afterXfer ⟨t.chip, t.hdr, [], [], .timeout⟩)).Sound :=
  (h.afterXfer hi (busEventOk_timeout t.chip t.hdr)).onTimeout t

/-- A transaction that moved its bytes, and what the command does with them. -/
theorem State.Sound.transferred {s : State} (h : s.Sound) (hi : s.status.init = true) {t : Txn}
    (ht : t.dataBytes ≤ Config.maxBurst) (held : Byte) :
    (t.after.apply (s.received t.chip t.hdr (t.send.resolve held) t.nin)
      (s.afterXfer ⟨t.chip, t.hdr, t.send.resolve held, s.received t.chip t.hdr (t.send.resolve held) t.nin, .ok⟩)).Sound :=
  (h.afterXfer hi (t.eventOk held s ht)).apply t.after (t.received_length_le ht s _)

/-- The completion step: idle, deselected, and CAUSE a legal code. -/
theorem State.Sound.complete {s : State} (h : s.Sound) (evs : List Event) : (s.complete evs).Inv where
  bufWf := h.bufWf
  busyIffExec := by simp
  notBusyAndDone := by simp
  selIsCurrent := by simp
  initIffLines := h.initIffLines
  causeLegal := causeOf_legal evs
  flightOk := by simp
  historyOk := h.historyOk
  historyAfterInit := h.historyAfterInit

theorem State.Sound.runTxns {s : State} {todo : List Txn} (h : s.Sound) (hd : ∀ t ∈ todo, t.dataBytes ≤ Config.maxBurst)
    (hi : todo ≠ [] → s.status.init = true) (held : Byte) (evs : List Event) : (s.runTxns todo held evs).Inv := by
  induction todo generalizing held s with
  | nil => exact h.complete evs
  | cons t ts ih =>
    have hi := hi (List.cons_ne_nil t ts)
    cases hp : s.pollReady t.chip t.hdr (t.send.resolve held) t.nin with
    | false =>
      rw [State.runTxns_of_timeout ts evs hp]
      exact (h.timedOut hi t).complete _
    | true =>
      rw [State.runTxns_of_ready ts evs hp]
      exact ih (h.transferred hi (hd t List.mem_cons_self) held) (fun t' ht' => hd t' (List.mem_cons_of_mem t ht'))
        (fun _ => by simpa using hi) _

/-! ### The engine keeps the invariant -/

/-- A plan clears no INIT. -/
theorem plan_init {s : State} (i : Instr) (h : s.status.init = true) : (plan i s).status.init = true := by
  rcases plan_init_cases i s with hp | ⟨-, hp⟩
  · rw [hp, h]
  · exact hp

/-- A plan selects no chip. -/
theorem plan_sel {s : State} (i : Instr) (h : s.sel = none) : (plan i s).sel = none := by
  rcases plan_cases i s with ⟨-, -, hp⟩ | ⟨_, -, -, _, hp⟩ | ⟨-, hp⟩ | ⟨_, _, _, -, -, -, -, -, hp⟩ <;> rw [hp]
  case inr.inr.inl => exact configureBus_sel h
  all_goals exact h

/-- A decoded command, run to its end (70_reset_and_hazards.md R259). -/
theorem State.Inv.plan_finish {s : State} (h : s.Inv) {i : Instr} (hd : decode s.cmd = .ok i) : (plan i s).finish.Inv := by
  obtain ⟨todo, evs, he, hf⟩ := plan_eng i s
  obtain ⟨-, hb, hi⟩ := plan_flight (wf_of_decode hd) he
  rw [hf]
  exact (h.sound.plan i).runTxns hb (fun hne => plan_init i (hi hne)) _ _

theorem State.Inv.runEngine {s t : State} (h : s.Inv) (hr : s.runEngine = .next t) : t.Inv := by
  rcases runEngine_cases hr with ⟨-, rfl⟩ | ⟨-, -, rfl⟩ | ⟨i, -, hd, rfl⟩ | ⟨f, hf, rfl⟩
  · exact h
  · exact h.sound.complete _
  · exact h.plan_finish hd
  · obtain ⟨-, hb, hi⟩ := h.flightOk f hf
    exact h.sound.runTxns hb hi _ _

/-- A command still in progress: STATUS is as it was, and only the current transaction's chip is selected. -/
theorem State.Inv.inProgress {s t : State} {f : Flight} (h : s.Inv) (he : s.eng ≠ .idle) (ht : t.Sound)
    (hst : t.status = s.status) (hf : t.eng = .running f)
    (hsel : ∀ c, t.sel = some c → ∃ x xs, f.todo = x :: xs ∧ x.chip = c)
    (hflight : f.todo.length ≤ 3 ∧ (∀ x ∈ f.todo, x.dataBytes ≤ Config.maxBurst) ∧ (f.todo ≠ [] → s.status.init = true)) :
    t.Inv where
  bufWf := ht.bufWf
  busyIffExec := by simp [hst, hf, h.busyIffExec, he]
  notBusyAndDone := by rw [hst]; exact h.notBusyAndDone
  selIsCurrent c hc := by
    obtain ⟨x, xs, htodo, hchip⟩ := hsel c hc
    exact ⟨f, x, xs, hf, htodo, hchip⟩
  initIffLines := ht.initIffLines
  causeLegal := by rw [hst]; exact h.causeLegal
  flightOk f' hf' := by
    rw [hf] at hf'
    cases hf'
    rw [hst]
    exact hflight
  historyOk := ht.historyOk
  historyAfterInit := ht.historyAfterInit

theorem State.Inv.begin {s : State} (h : s.Inv) (he : s.eng = .accepted) : s.begin.Inv := by
  rcases begin_cases s with ⟨_, -, hb⟩ | ⟨i, hd, ⟨evs, x, xs, hp, hb, hst⟩ | ⟨evs, -, hb⟩⟩ <;> rw [hb]
  · exact h.sound.complete _
  · have hsel : (plan i s).sel = none := plan_sel i (h.sel_eq_none (by simp [he]))
    exact h.inProgress (by simp [he]) (h.sound.plan i) hst hp (by simp [hsel]) (plan_flight (wf_of_decode hd) hp)
  · exact (h.sound.plan i).complete _

theorem State.Inv.transferPhase {s : State} {f : Flight} {t : Txn} {ts : List Txn} (h : s.Inv) (hf : s.eng = .running f)
    (ht : f.todo = t :: ts) : (s.transferPhase t ts f).Inv := by
  obtain ⟨hlen, hbytes, hinit⟩ := h.flightOk f hf
  rw [ht] at hlen hbytes
  have hi : s.status.init = true := hinit (by simp [ht])
  have hexec : s.eng ≠ .idle := by simp [hf]
  unfold State.transferPhase
  cases hp : s.pollReady t.chip t.hdr (t.send.resolve f.held) t.nin with
  | false =>
    rw [State.transfer_of_timeout hp]
    exact h.inProgress hexec ((h.sound.timedOut hi t).congr rfl rfl rfl rfl) (by simp) rfl (by simp) (by simp)
  | true =>
    rw [State.transfer_of_ready hp]
    have hd : t.dataBytes ≤ Config.maxBurst := hbytes t List.mem_cons_self
    refine h.inProgress hexec ((h.sound.transferred hi hd f.held).congr rfl rfl rfl rfl) (by simp) rfl (by simp) ?_
    exact ⟨Nat.le_of_succ_le hlen, fun x hx => hbytes x (List.mem_cons_of_mem t hx), fun _ => hi⟩

theorem State.Inv.phase {s : State} (h : s.Inv) : s.phase.Inv := by
  rcases phase_cases s with ⟨-, hp⟩ | ⟨he, hp⟩ | ⟨f, -, -, hp⟩ | ⟨f, t, ts, hf, ht, -, hp⟩ | ⟨f, t, ts, _, hf, ht, -, hp⟩ <;>
    rw [hp]
  · exact h
  · exact h.begin he
  · exact h.sound.complete _
  · refine h.inProgress (by simp [hf]) (h.sound.congr rfl rfl rfl rfl) rfl hf (fun c hc => ?_) (h.flightOk f hf)
    exact ⟨t, ts, ht, by simpa using hc⟩
  · exact h.transferPhase hf ht

/-! ### The host keeps the invariant -/

/-- The invariant does not look at the host's side of the machine, and of the reports it fixes only BUSY, INIT, CAUSE and that
DONE is not set. -/
theorem State.Inv.congr {s t : State} (h : s.Inv) (hbuf : t.buf = s.buf) (heng : t.eng = s.eng) (hsel : t.sel = s.sel)
    (hlines : t.lines = s.lines) (hhist : t.history = s.history) (hbusy : t.status.busy = s.status.busy)
    (hinit : t.status.init = s.status.init) (hcause : t.status.cause = s.status.cause)
    (hdone : t.status.done = true → s.status.done = true) : t.Inv where
  bufWf := hbuf ▸ h.bufWf
  busyIffExec := by rw [hbusy, heng]; exact h.busyIffExec
  notBusyAndDone hbd := h.notBusyAndDone ⟨hbusy ▸ hbd.1, hdone hbd.2⟩
  selIsCurrent := by rw [hsel, heng]; exact h.selIsCurrent
  initIffLines := by rw [hinit, hlines]; exact h.initIffLines
  causeLegal := hcause ▸ h.causeLegal
  flightOk := by rw [hinit, heng]; exact h.flightOk
  historyOk := hhist ▸ h.historyOk
  historyAfterInit := by rw [hinit, hhist]; exact h.historyAfterInit

theorem State.Inv.next {s : State} (h : s.Inv) (rest : List Input) : (s.next rest).Inv :=
  h.congr rfl rfl rfl rfl rfl rfl rfl rfl id

theorem State.Inv.returned {s : State} (h : s.Inv) (v : Word) : (s.returned v).Inv :=
  h.congr rfl rfl rfl rfl rfl rfl rfl rfl id

theorem State.Inv.overrun {s : State} (h : s.Inv) : s.overrun.Inv :=
  h.congr rfl rfl rfl rfl rfl rfl rfl rfl id

/-- An accepted command: the engine was idle, so no chip is selected (10_state.md R21). -/
theorem State.Inv.accept {s : State} (h : s.Inv) (hb : s.status.busy = false) (w : Word) : (s.accept w).Inv where
  bufWf := h.bufWf
  busyIffExec := by simp
  notBusyAndDone := by simp
  selIsCurrent c hc := by
    have hsel : s.sel = none := h.sel_eq_none (by simp [h.eng_eq_idle hb])
    simp [hsel] at hc
  initIffLines := h.initIffLines
  causeLegal := h.causeLegal
  flightOk := by simp
  historyOk := h.historyOk
  historyAfterInit := h.historyAfterInit

theorem State.Inv.setBuf {s : State} {m : Memory} (h : s.Inv) (hm : m.wf = true) : (s.setBuf m).Inv :=
  { h with bufWf := hm }

/-- A write to a register of the map; `buf k` stands there for k < 16 only (hostReg_buf). -/
theorem State.Inv.writeReg {s : State} (h : s.Inv) (v : Word) {r : HostReg} (hr : ∀ k, r = .buf k → k < 16) :
    (s.writeReg v r).Inv := by
  rcases writeReg_cases s v r with ⟨-, -, hw⟩ | ⟨hb, -, hw⟩ | ⟨-, -, hw⟩ | ⟨-, -, hw⟩ | ⟨k, hk, hw⟩ | ⟨-, hw⟩ | hw <;> rw [hw]
  · exact h.overrun
  · exact h.accept hb v
  · exact h.congr rfl rfl rfl rfl rfl rfl rfl rfl id
  · exact h.congr rfl rfl rfl rfl rfl rfl rfl rfl id
  · exact h.setBuf (Memory.writeWord_wf v h.bufWf (hr k hk))
  · exact h.congr rfl rfl rfl rfl rfl rfl rfl rfl (by simp +contextual)
  · exact h

theorem State.Inv.resetRce (s : State) : s.resetRce.Inv where
  bufWf := rfl
  busyIffExec := by simp [Status.reset]
  notBusyAndDone := by simp [Status.reset]
  selIsCurrent := by simp
  initIffLines := by simp [Status.reset]
  causeLegal := by simp [Status.reset]
  flightOk := by simp
  historyOk := by simp
  historyAfterInit := by simp

/-- Settles O29, by the cases of a step: each kind of step keeps the invariant. -/
theorem everyStepKeepsTheInvariant : Obligations.EveryStepKeepsTheInvariant := by
  intro s t h hstep
  rcases step_cases hstep with ⟨-, hr⟩ | ⟨o, n, rest, -, hr⟩ | ⟨o, n, v, rest, -, hw⟩ | ⟨rest, -, -, hr⟩ |
    ⟨rest, -, -, rfl⟩ | ⟨rest, -, rfl⟩ | ⟨rest, -, rfl⟩
  · exact h.runEngine hr
  · obtain ⟨r, -, rfl⟩ := hostRead_cases hr
    exact (h.next rest).returned _
  · obtain ⟨r, hreg, rfl⟩ := hostWrite_cases hw
    exact (h.next rest).writeReg v fun k hk => (hostReg_buf (hk ▸ hreg)).1
  · exact h.runEngine hr
  · exact (h.next rest).returned _
  · exact State.Inv.resetRce _
  · exact (h.next rest).phase

end Sys2Proof.Machine
end

section
/-! The machine goes on (20_memory.md R51, R66) and what a command adds to the bus history (R58, 70_reset_and_hazards.md R259):
every step answers a next state but that of an undefined host access, and a command's bus events are its plan's transactions. -/

namespace Sys2Proof.Machine

/-! ### Which steps go on -/

theorem runEngine_next (s : State) : ∃ t, s.runEngine = .next t := by
  unfold State.runEngine
  split
  · exact ⟨_, rfl⟩
  · split
    · exact ⟨_, rfl⟩
    · exact exec_next _ s
  · exact ⟨_, rfl⟩

/-- A poll lets the engine run, or reads STATUS at its own offset, which the map defines. -/
theorem poll_next (rest : List Input) (s : State) : ∃ t, s.poll rest = .next t := by
  unfold State.poll
  split
  · exact runEngine_next s
  · exact ⟨_, rfl⟩

/-- A host access is a step or is refused, by whether the map has a register for it. -/
theorem step_hostAccess {s : State} {o n : Nat} {rest : List Input} {x : Input} (hin : s.inputs = x :: rest)
    (hx : x = .read o n ∨ ∃ v, x = .write o n v) :
    ((hostReg o n).isSome = true ∧ ∃ t, step s = .next t) ∨
    ((hostReg o n).isSome = false ∧ step s = .refused (.undefinedHostAccess o n)) := by
  cases hreg : hostReg o n with
  | none => rcases hx with rfl | ⟨v, rfl⟩ <;> simp [step, hin, hostRead, hostWrite, hreg]
  | some r =>
    refine .inl ⟨rfl, ?_⟩
    rcases hx with rfl | ⟨v, rfl⟩
    · obtain ⟨t, ht, -⟩ := step_read hin hreg rfl
      exact ⟨t, ht⟩
    · exact ⟨_, step_write hin hreg rfl⟩

/-- A step goes on unless a host access is at the head of `inputs`. -/
theorem step_next_or_hostAccess (s : State) : (∃ t, step s = .next t) ∨
    ∃ o n rest x, s.inputs = x :: rest ∧ (x = .read o n ∨ ∃ v, x = .write o n v) := by
  cases hin : s.inputs with
  | nil => exact .inl (by simpa only [step, hin] using runEngine_next s)
  | cons x rest =>
    cases x with
    | read o n => exact .inr ⟨o, n, rest, _, rfl, .inl rfl⟩
    | write o n v => exact .inr ⟨o, n, rest, _, rfl, .inr ⟨v, rfl⟩⟩
    | wait => exact .inl (by simpa only [step, hin] using poll_next rest s)
    | reset | phase => exact .inl (by simp only [step, hin]; exact ⟨_, rfl⟩)

/-- Settles O20: only a host access outside the register map is refused. -/
theorem stepRefusesOnlyUndefinedHostAccesses : Obligations.StepRefusesOnlyUndefinedHostAccesses := by
  intro s
  rcases step_next_or_hostAccess s with hnext | ⟨o, n, rest, x, hin, hx⟩
  · exact .inl hnext
  · rcases step_hostAccess hin hx with ⟨-, hnext⟩ | ⟨hnone, hrefused⟩
    · exact .inl hnext
    · refine .inr ⟨o, n, rest, hrefused, fun hdef => ?_, ?_⟩
      · simp [(hostReg_isSome o n).2 hdef] at hnone
      · rcases hx with rfl | ⟨v, rfl⟩
        · exact .inl hin
        · exact .inr ⟨v, hin⟩

/-- Settles O19: the map has a register at exactly the accesses R51 defines. -/
theorem onlyDefinedHostAccessesHaveAStep : Obligations.OnlyDefinedHostAccessesHaveAStep := by
  intro s o n rest x hin hx
  rw [← hostReg_isSome o n]
  rcases step_hostAccess hin hx with ⟨hsome, hnext⟩ | ⟨hnone, hrefused⟩
  · exact ⟨iff_of_true hnext hsome, fun hnot => absurd hsome hnot⟩
  · exact ⟨by simp [hrefused, hnone], fun _ => hrefused⟩

/-! ### The transactions of a command -/

@[simp] theorem configureBus_history (s : State) : s.configureBus.history = s.history := by
  unfold State.configureBus
  split <;> rfl

theorem plan_history (i : Instr) (s : State) : (plan i s).history = s.history := by
  rcases plan_cases i s with ⟨-, -, hp⟩ | ⟨_, -, -, _, hp⟩ | ⟨-, hp⟩ | ⟨_, _, _, -, -, -, -, -, hp⟩ <;> rw [hp]
  case inr.inr.inl => exact configureBus_history s
  all_goals rfl

/-- A command plans at most three transactions (70_reset_and_hazards.md R259), all with the chip it names
(60_exceptions.md R237). -/
theorem plan_todo {i : Instr} {s : State} {f : Flight} (h : (plan i s).eng = .running f) :
    f.todo.length ≤ 3 ∧ ∀ t ∈ f.todo, i.chip = some t.chip := by
  rcases plan_cases i s with ⟨-, -, hp⟩ | ⟨_, -, -, _, hp⟩ | ⟨-, hp⟩ | ⟨_, _, _, -, -, -, hlen, hchip, hp⟩ <;>
    rw [hp] at h <;> cases h
  case inr.inr.inr => exact ⟨hlen, fun t ht => (hchip t ht).symm⟩
  all_goals simp

/-- Settles O32: the events added are those of the planned transactions, in order, up to the first timeout. -/
theorem commandsAddOnlyTheirOwnTransactions : Obligations.CommandsAddOnlyTheirOwnTransactions := by
  intro i s t h
  rw [exec_eq_plan] at h
  cases h
  obtain ⟨todo, evs, he, hf⟩ := plan_eng i s
  obtain ⟨hthree, hchip⟩ := plan_todo he
  obtain ⟨es, hes, hlen, hfrom, hok⟩ := State.runTxns_history todo 0 evs (plan i s)
  refine ⟨es, by rw [hf, hes, plan_history], hlen.trans hthree, fun e hmem => ?_, fun hbus => ?_, hok⟩
  · obtain ⟨x, hx, hxe⟩ := hfrom e hmem
    rw [hxe]
    exact hchip x hx
  · have htodo : todo = [] := todo_of_not_usesBus hbus he
    subst htodo
    exact List.length_eq_zero_iff.1 (Nat.le_zero.1 hlen)

end Sys2Proof.Machine
end

section
/-! Encoding (30_encoding.md): `decode` inverts `encode`, a word that decodes is its command's encoding, and what `decode`
rejects. The first two go through the row a word matches (`decode_of_match`, `exists_match_of_decode_eq_ok`), the last through
the row of its OPC (`rejects_decode_iff`). -/

namespace Sys2Proof

/-! ### The row a word matches (R73) -/

theorem Opcode.code_injective : Function.Injective Opcode.code := fun o o' h =>
  Option.some_injective _ (by rw [← Opcode.ofByte_code o, h, Opcode.ofByte_code])

theorem Opcode.ofByte_eq_some_iff {b : Byte} {o : Opcode} : Opcode.ofByte b = some o ↔ o.code = b :=
  ⟨Opcode.code_of_ofByte, fun h => h ▸ Opcode.ofByte_code o⟩

theorem Opcode.ofByte_eq_none_iff {b : Byte} : Opcode.ofByte b = none ↔ ∀ o : Opcode, o.code ≠ b := by
  simp only [Option.eq_none_iff_forall_ne_some, ne_eq, Opcode.ofByte_eq_some_iff]

/-- A match value has nothing below the OPC field. -/
theorem Opcode.pattern_eq (o : Opcode) : o.pattern = wordN o.code := by cases o <;> rfl

/-- Step 1 of R74 finds the row of a word that matches one. -/
theorem fieldOpc_of_match {w : Word} {o : Opcode} (h : w &&& o.mask = o.pattern) : fieldOpc w = o.code :=
  (slice_of_match h 24 8 o.mask_opc.1).trans o.mask_opc.2

/-- A field below OPC that the row's mask covers is zero in a word that matches (R74 step 2). -/
theorem slice_eq_zero_of_match {w : Word} {o : Opcode} (h : w &&& o.mask = o.pattern) (start len : Nat) (hlen : start + len ≤ 24)
    (hm : o.mask.extractLsb' start len = BitVec.allOnes len) : w.extractLsb' start len = 0#len := by
  rw [slice_of_match h start len hm, o.pattern_eq, wordN, BitVec.extractLsb'_append_eq_of_add_le hlen]
  simp

/-- Settles O4: matching fixes OPC, and the OPC values differ. -/
theorem atMostOneRowMatches : Obligations.AtMostOneRowMatches := fun _ _ _ h h' =>
  Opcode.code_injective ((fieldOpc_of_match h).symm.trans (fieldOpc_of_match h'))

/-! ### Decoding by rows (R74) -/

theorem decode_of_match {w : Word} {o : Opcode} (h : w &&& o.mask = o.pattern) : decode w = decodeOperands o w := by
  simp only [decode, fieldOpc_of_match h, Opcode.ofByte_code, h, if_true]

theorem exists_match_of_decode_eq_ok {w : Word} {i : Instr} (h : decode w = .ok i) :
    ∃ o : Opcode, w &&& o.mask = o.pattern ∧ decodeOperands o w = .ok i := by
  unfold decode at h
  split at h
  · cases h
  next o _ =>
    split at h
    next hm => exact ⟨o, hm, h⟩
    · cases h

/-! ### Decoding the word of a command (R71, R72) -/

/-- The word of a command matches the row the command belongs to. -/
theorem encode_matches_row (i : Instr) : encode i &&& i.opcode.mask = i.opcode.pattern := by
  cases i with
  | nop => exact Laws.MatchesRow.nop
  | busInit => exact Laws.MatchesRow.busInit
  | wrReg c a d => exact Laws.MatchesRow.wrReg c a d
  | rdReg c a => exact Laws.MatchesRow.rdReg c a
  | wrBurst c a n => exact Laws.MatchesRow.wrBurst c a n
  | rdBurst c a n => exact Laws.MatchesRow.rdBurst c a n
  | strobe c a => exact Laws.MatchesRow.strobe c a
  | rdStatus c a => exact Laws.MatchesRow.rdStatus c a
  | fdec r d => exact Laws.MatchesRow.fdec r d
  | fenc r => exact Laws.MatchesRow.fenc r
  | decomp c r => exact Laws.MatchesRow.decomp c r
  | fget c r fid => exact Laws.MatchesRow.fget c r fid
  | fset c r fid val => exact Laws.MatchesRow.fset c r fid val
  | freqEnc => exact Laws.MatchesRow.freqEnc
  | setFreq c => exact Laws.MatchesRow.setFreq c
  | drateEnc => exact Laws.MatchesRow.drateEnc
  | setDrate c => exact Laws.MatchesRow.setDrate c
  | devEnc => exact Laws.MatchesRow.devEnc
  | setDev c => exact Laws.MatchesRow.setDev c
  | bwEnc => exact Laws.MatchesRow.bwEnc
  | setBw c => exact Laws.MatchesRow.setBw c
  | chspEnc => exact Laws.MatchesRow.chspEnc
  | setChsp c => exact Laws.MatchesRow.setChsp c

/-- Every operand is read back from its own field: CHIP and RID from any value, a burst length and a FID from a legal one. -/
theorem decodeOperands_encode {i : Instr} (h : i.wf = true) : decodeOperands i.opcode (encode i) = .ok i := by
  cases i
  case nop | busInit | freqEnc | drateEnc | devEnc | bwEnc | chspEnc => rfl
  case wrBurst c a n | rdBurst c a n =>
    have hn : (lenBits n).toNat + 1 = n := lenBits_toNat h
    simp [Instr.opcode, encode, decodeOperands, burstLen, hn, Except.map]
  case fget c r fid | fset c r fid val =>
    have hfid : fidOfBits r (BitVec.ofNat 3 fid) = .ok fid := fidOfBits_ofNat h
    simp [Instr.opcode, encode, decodeOperands, hfid, Except.map, Except.bind]
  case decomp => simp [Instr.opcode, encode, decodeOperands, Except.map, Except.bind]
  all_goals simp [Instr.opcode, encode, decodeOperands, Except.map]

/-- Settles O1: the word matches its command's row, and the row reads the operands back. -/
theorem decodeOfEncodeIsTheCommand : Obligations.DecodeOfEncodeIsTheCommand := fun i hwf =>
  (decode_of_match (encode_matches_row i)).trans (decodeOperands_encode hwf)

/-! ### A word that matches a row is put together from its fields (R71) -/

section
variable {w : Word} {o : Opcode} {opc : Byte} (h : w &&& o.mask = o.pattern)
include h

theorem zero_eq_fieldChip (hz : o.mask.extractLsb' 22 2 = BitVec.allOnes 2 := by decide) : 0 = fieldChip w :=
  (slice_eq_zero_of_match h 22 2 (by decide) hz).symm

theorem zero_eq_fieldLen (hz : o.mask.extractLsb' 8 6 = BitVec.allOnes 6 := by decide) : 0 = fieldLen w :=
  (slice_eq_zero_of_match h 8 6 (by decide) hz).symm

theorem zero_eq_fieldFid (hz : o.mask.extractLsb' 8 3 = BitVec.allOnes 3 := by decide) : 0 = fieldFid w :=
  (slice_eq_zero_of_match h 8 3 (by decide) hz).symm

theorem zero_eq_fieldData (hz : o.mask.extractLsb' 0 8 = BitVec.allOnes 8 := by decide) : 0 = fieldData w :=
  (slice_eq_zero_of_match h 0 8 (by decide) hz).symm

theorem wordN_eq_of_match (ho : opc = o.code := by rfl)
    (hz : o.mask.extractLsb' 0 24 = BitVec.allOnes 24 := by decide) : wordN opc = w := by
  rw [ho, ← fieldOpc_of_match h, wordN, ← slice_eq_zero_of_match h 0 24 (by decide) hz]
  exact word_eq_N w

theorem wordB_eq_of_match {c : BitVec 2} {len : BitVec 6} {d : Byte} (hc : c = fieldChip w) (hlen : len = fieldLen w)
    (hd : d = fieldData w) (ho : opc = o.code := by rfl) (hz : o.mask.extractLsb' 14 2 = BitVec.allOnes 2 := by decide) :
    wordB opc c (fieldAddr w) len d = w := by
  rw [ho, hc, hlen, hd, ← fieldOpc_of_match h, wordB, ← slice_eq_zero_of_match h 14 2 (by decide) hz]
  exact word_eq_B w

theorem wordF_eq_of_match {c : BitVec 2} {rid fid : BitVec 3} {d : Byte} (hc : c = fieldChip w) (hrid : rid = fieldRid w)
    (hfid : fid = fieldFid w) (hd : d = fieldData w) (ho : opc = o.code := by rfl)
    (hz : o.mask.extractLsb' 19 3 = BitVec.allOnes 3 := by decide)
    (hz' : o.mask.extractLsb' 11 5 = BitVec.allOnes 5 := by decide) : wordF opc c rid fid d = w := by
  rw [ho, hc, hrid, hfid, hd, ← fieldOpc_of_match h, wordF, ← slice_eq_zero_of_match h 19 3 (by decide) hz,
    ← slice_eq_zero_of_match h 11 5 (by decide) hz']
  exact word_eq_F w

theorem wordQ_eq_of_match {c : BitVec 2} (hc : c = fieldChip w) (ho : opc = o.code := by rfl)
    (hz : o.mask.extractLsb' 0 22 = BitVec.allOnes 22 := by decide) : wordQ opc c = w := by
  rw [ho, hc, ← fieldOpc_of_match h, wordQ, ← slice_eq_zero_of_match h 0 22 (by decide) hz]
  exact word_eq_Q w

end

section
variable {ε α β : Type} {x : Except ε α}

theorem exists_of_map_eq_ok {f : α → β} {b : β} (h : x.map f = .ok b) : ∃ a, x = .ok a ∧ f a = b := by
  cases x with
  | error e => cases h
  | ok a => exact ⟨a, rfl, Except.ok.inj h⟩

theorem exists_of_bind_eq_ok {f : α → Except ε β} {b : β} (h : x.bind f = .ok b) : ∃ a, x = .ok a ∧ f a = .ok b := by
  cases x with
  | error e => cases h
  | ok a => exact ⟨a, rfl, h⟩

end

/-- Every bit of a legal word is its row's OPC, an operand's field, or a zero that the row's mask asks for. -/
theorem encode_of_decodeOperands {w : Word} {o : Opcode} {i : Instr} (hm : w &&& o.mask = o.pattern)
    (h : decodeOperands o w = .ok i) : encode i = w := by
  cases o
  case nop | busInit => cases h; exact wordN_eq_of_match hm
  case freqEnc | drateEnc | devEnc | bwEnc | chspEnc => cases h; exact wordQ_eq_of_match hm (zero_eq_fieldChip hm)
  case wrReg =>
    obtain ⟨c, hc, rfl⟩ := exists_of_map_eq_ok h
    exact wordB_eq_of_match hm (chipBits_of_chipOfBits hc) (zero_eq_fieldLen hm) rfl
  case rdReg | strobe | rdStatus =>
    obtain ⟨c, hc, rfl⟩ := exists_of_map_eq_ok h
    exact wordB_eq_of_match hm (chipBits_of_chipOfBits hc) (zero_eq_fieldLen hm) (zero_eq_fieldData hm)
  case wrBurst | rdBurst =>
    obtain ⟨c, hc, rfl⟩ := exists_of_map_eq_ok h
    exact wordB_eq_of_match hm (chipBits_of_chipOfBits hc) (lenBits_burstLen w) (zero_eq_fieldData hm)
  case fdec =>
    obtain ⟨r, hr, rfl⟩ := exists_of_map_eq_ok h
    exact wordF_eq_of_match hm (zero_eq_fieldChip hm) (rid_of_regOfBits hr) (zero_eq_fieldFid hm) rfl
  case fenc =>
    obtain ⟨r, hr, rfl⟩ := exists_of_map_eq_ok h
    exact wordF_eq_of_match hm (zero_eq_fieldChip hm) (rid_of_regOfBits hr) (zero_eq_fieldFid hm) (zero_eq_fieldData hm)
  case decomp =>
    obtain ⟨c, hc, h⟩ := exists_of_bind_eq_ok h
    obtain ⟨r, hr, rfl⟩ := exists_of_map_eq_ok h
    exact wordF_eq_of_match hm (chipBits_of_chipOfBits hc) (rid_of_regOfBits hr) (zero_eq_fieldFid hm) (zero_eq_fieldData hm)
  case fget =>
    obtain ⟨c, hc, h⟩ := exists_of_bind_eq_ok h
    obtain ⟨r, hr, h⟩ := exists_of_bind_eq_ok h
    obtain ⟨fid, hfid, rfl⟩ := exists_of_map_eq_ok h
    exact wordF_eq_of_match hm (chipBits_of_chipOfBits hc) (rid_of_regOfBits hr) (of_fidOfBits hfid).2 (zero_eq_fieldData hm)
  case fset =>
    obtain ⟨c, hc, h⟩ := exists_of_bind_eq_ok h
    obtain ⟨r, hr, h⟩ := exists_of_bind_eq_ok h
    obtain ⟨fid, hfid, rfl⟩ := exists_of_map_eq_ok h
    exact wordF_eq_of_match hm (chipBits_of_chipOfBits hc) (rid_of_regOfBits hr) (of_fidOfBits hfid).2 rfl
  case setFreq | setDrate | setDev | setBw | setChsp =>
    obtain ⟨c, hc, rfl⟩ := exists_of_map_eq_ok h
    exact wordQ_eq_of_match hm (chipBits_of_chipOfBits hc)

/-- Settles O2: a word that decodes matches a row, and with its operands the row fixes every bit. -/
theorem decodedWordIsTheEncoding : Obligations.DecodedWordIsTheEncoding := by
  intro w i h
  obtain ⟨o, hm, hi⟩ := exists_match_of_decode_eq_ok h
  exact ⟨wf_of_decode h, encode_of_decodeOperands hm hi⟩

/-! ### The words `decode` rejects (R74 steps 1 to 3) -/

/-- The check fails, with whatever error. -/
def Rejects {ε α : Type} (x : Except ε α) : Prop := ∃ e, x = .error e

section
variable {ε α β : Type} (x : Except ε α)

@[simp] theorem rejects_error (e : ε) : Rejects (.error e : Except ε α) := ⟨e, rfl⟩

@[simp] theorem not_rejects_ok (a : α) : ¬ Rejects (.ok a : Except ε α) := fun ⟨_, h⟩ => nomatch h

@[simp] theorem rejects_map_iff (f : α → β) : Rejects (x.map f) ↔ Rejects x := by
  cases x <;> simp [Except.map]

/-- A check followed by another: the second is reached with a value the first lets pass. -/
theorem rejects_bind_iff (f : α → Except ε β) : Rejects (x.bind f) ↔ Rejects x ∨ ∃ a, x = .ok a ∧ Rejects (f a) := by
  cases x <;> simp [Except.bind]

/-- Where the second check does not depend on the value, its order with the first does not matter. -/
theorem rejects_bind_iff_of_forall {f : α → Except ε β} {p : Prop} (hf : ∀ a, Rejects (f a) ↔ p) :
    Rejects (x.bind f) ↔ Rejects x ∨ p := by
  cases x <;> simp [Except.bind, hf]

end

@[simp] theorem rejects_chipOfBits_iff (v : BitVec 2) : Rejects (chipOfBits v) ↔ 2 ≤ v.toNat := by
  unfold chipOfBits
  split
  next hlt => simpa using hlt
  next hge => exact iff_of_true (rejects_error _) (Nat.le_of_not_lt hge)

theorem regOfBits_eq_ok_iff {v : BitVec 3} {r : PackedReg} : regOfBits v = .ok r ↔ r.rid = v :=
  ⟨rid_of_regOfBits, fun h => h ▸ regOfBits_rid r⟩

@[simp] theorem rejects_regOfBits_iff (v : BitVec 3) : Rejects (regOfBits v) ↔ 4 < v.toNat := by
  unfold regOfBits
  split
  case h_6 => exact iff_of_true (rejects_error _) (by grind)
  all_goals next hv => simp [hv]

@[simp] theorem rejects_fidOfBits_iff (r : PackedReg) (v : BitVec 3) : Rejects (fidOfBits r v) ↔ r.nf ≤ v.toNat := by
  unfold fidOfBits
  split
  next hok => simpa [fieldOk] using hok
  next hbad => simpa [fieldOk] using hbad

/-- RID, then FID against the NF of the register RID names. -/
theorem rejects_regOfBits_bind_fidOfBits_iff {β : Type} (f : PackedReg → Nat → β) (v u : BitVec 3) :
    Rejects ((regOfBits v).bind fun r => (fidOfBits r u).map (f r)) ↔
      4 < v.toNat ∨ ∃ r : PackedReg, r.rid = v ∧ r.nf ≤ u.toNat := by
  simp only [rejects_bind_iff, rejects_regOfBits_iff, regOfBits_eq_ok_iff, rejects_map_iff, rejects_fidOfBits_iff]

/-- R74 step 3 of a row: CHIP, RID and FID are each checked in the rows that have it. -/
theorem rejects_decodeOperands_iff (o : Opcode) (w : Word) : Rejects (decodeOperands o w) ↔
    (o ∉ [Opcode.nop, .busInit, .fdec, .fenc, .freqEnc, .drateEnc, .devEnc, .bwEnc, .chspEnc] ∧ 2 ≤ (fieldChip w).toNat) ∨
      (o ∈ [Opcode.fdec, .fenc, .decomp, .fget, .fset] ∧ 4 < (fieldRid w).toNat) ∨
      (o ∈ [Opcode.fget, .fset] ∧ ∃ r : PackedReg, r.rid = fieldRid w ∧ r.nf ≤ (fieldFid w).toNat) := by
  cases o
  case decomp =>
    simp [decodeOperands, rejects_bind_iff_of_forall _ fun _ => (rejects_map_iff _ _).trans (rejects_regOfBits_iff _)]
  case fget | fset =>
    simp [decodeOperands, rejects_bind_iff_of_forall _ fun _ => rejects_regOfBits_bind_fidOfBits_iff _ _ _]
  all_goals simp [decodeOperands]

/-- The decoder fails in step 1, in step 2 or in step 3 of its row. -/
theorem rejects_decode_iff (w : Word) : Rejects (decode w) ↔
    (∀ o : Opcode, o.code ≠ fieldOpc w) ∨
      ∃ o : Opcode, o.code = fieldOpc w ∧ (w &&& o.mask ≠ o.pattern ∨ Rejects (decodeOperands o w)) := by
  unfold decode
  split
  next hnone => exact iff_of_true (rejects_error _) (.inl (Opcode.ofByte_eq_none_iff.1 hnone))
  next o hsome =>
    have ho : o.code = fieldOpc w := Opcode.ofByte_eq_some_iff.1 hsome
    have hrow : ∀ o' : Opcode, o'.code = fieldOpc w ↔ o' = o := fun o' => by rw [← ho, Opcode.code_injective.eq_iff]
    split
    next hm => simp [hrow, hm]
    next hm => simp [hrow, hm]

/-- Settles O3: steps 1 and 2 by the row of the word's OPC, step 3 row by row. -/
theorem decoderRejectsExactlyTheIllegalWords : Obligations.DecoderRejectsExactlyTheIllegalWords := by
  intro w
  refine (rejects_decode_iff w).trans ?_
  simp only [rejects_decodeOperands_iff]

/-- Settles O5: each word is a literal, and the decoder computes on it. -/
theorem exampleWordsDecode : Obligations.ExampleWordsDecode := by
  unfold Obligations.ExampleWordsDecode
  decide

end Sys2Proof
end

section
/-! The bus (40_bus.md R100 to R104) and the control and bus commands (R106 to R113): a command is its plan's transactions run
to the completion step, so that one lemma for a command without a transaction and one for each outcome of a single transaction
give all eight. -/

namespace Sys2Proof.Machine

/-! ### Header bytes (R101) -/

/-- The two flag bits stand above the address, so that concatenation is the OR of R101. -/
theorem header_eq_or (rw burst : BitVec 1) (a : Addr) : header rw burst a = (rw ++ burst ++ 0#6) ||| a.zeroExtend 8 := by
  have haddr : a.zeroExtend 8 = 0#2 ++ a := BitVec.setWidth_eq_append (by decide)
  rw [header, haddr, BitVec.or_append, BitVec.zero_or]
  exact congrArg (· ++ a) BitVec.or_zero.symm

/-- Settles O30: each shape's flag bits are the constant of its row. -/
theorem headerBytesOfTheSixShapes : Obligations.HeaderBytesOfTheSixShapes := fun a =>
  ⟨header_eq_or 0 0 a, header_eq_or 1 0 a, header_eq_or 0 1 a, header_eq_or 1 1 a, header_eq_or 0 0 a, header_eq_or 1 1 a⟩

/-! ### BusXfer (R100) -/

/-- Settles O31: the two outcomes of the ready poll. -/
theorem busXferAnswersAndRecords : Obligations.BusXferAnswersAndRecords := fun s c hdr out nin =>
  ⟨fun hready => ⟨_, s.received_length c hdr out nin, State.busXfer_of_ready hready⟩, State.busXfer_of_timeout⟩

/-! ### Before BUS_INIT (R104) -/

theorem Status.complete_busNotInitialized (st : Status) : st.complete [.busNotInitialized] =
    { st with noinit := true, cause := 5, done := true, busy := false } := by
  simp [Status.complete]

/-- Settles O8: with INIT = 0 the plan of a bus command is the raise. -/
theorem uninitializedBusCommandOnlyReports : Obligations.UninitializedBusCommandOnlyReports := by
  intro i s hbus hinit
  rcases plan_cases i s with ⟨-, -, hp⟩ | ⟨_, hbus', -⟩ | ⟨rfl, -⟩ | ⟨_, _, _, -, hinit', -⟩
  · rw [exec_eq_plan, hp, State.finish_raise, State.complete, Status.complete_busNotInitialized]
  · simp [hbus] at hbus'
  · cases hbus
  · simp [hinit] at hinit'

/-! ### Commands without a transaction (R106, R107) -/

theorem exec_of_plan_start_nil {i : Instr} {s u : State} {evs : List Event} (hp : plan i s = u.start evs []) :
    exec i s = .next (u.completed u.res evs) := by
  rw [exec_eq_plan, hp, State.finish_start, State.runTxns_nil, State.complete_eq_completed]

theorem configureBus_of_init {s : State} (h : s.status.init = true) : s.configureBus = s := by
  simp [State.configureBus, h]

theorem configureBus_of_not_init {s : State} (h : s.status.init = false) :
    s.configureBus = { s with status := { s.status with init := true }, sel := none, lines := .idle } := by
  simp [State.configureBus, h]

/-- Settles O34: the plan of NOP starts nothing, whatever INIT is. -/
theorem nopOnlyCompletes : Obligations.NopOnlyCompletes := fun _ => exec_of_plan_start_nil rfl

/-- Settles O35: the bus set-up by INIT, then the completion of a command without a transaction. -/
theorem busInitConfiguresOnce : Obligations.BusInitConfiguresOnce := by
  intro s
  have hexec : exec .busInit s = .next (s.configureBus.completed s.configureBus.res []) := exec_of_plan_start_nil rfl
  refine ⟨fun hinit => ?_, fun hinit => ?_⟩
  · rw [hexec, configureBus_of_not_init hinit]
    rfl
  · rw [hexec, configureBus_of_init hinit]

/-! ### Commands with transactions -/

/-- With INIT = 1 a bus command is the run of its transactions (R104). -/
theorem exec_of_plan_onBus {i : Instr} {s u : State} {evs : List Event} {todo : List Txn}
    (hp : plan i s = s.onBus (u.start evs todo)) (hinit : s.status.init = true) :
    exec i s = .next (u.runTxns todo 0x00 evs) := by
  rw [exec_eq_plan, hp, State.onBus_of_init _ hinit, State.finish_start]

/-- The sentinel of a timed-out transaction (R105, D34). -/
theorem Txn.onTimeout_complete (t : Txn) (evs : List Event) (s : State) :
    (t.onTimeout s).complete evs = s.completed (if t.zeroResOnTimeout then 0x00000000 else s.res) evs := by
  unfold Txn.onTimeout
  split <;> rfl

section
variable {i : Instr} {s : State} {t : Txn} (hp : plan i s = s.onBus (s.start [] [t])) (hinit : s.status.init = true)
include hp hinit

theorem exec_single_of_ready (h : s.pollReady t.chip t.hdr (t.send.resolve 0x00) t.nin = true) :
    exec i s = .next ((t.after.apply (s.received t.chip t.hdr (t.send.resolve 0x00) t.nin)
      (s.afterXfer ⟨t.chip, t.hdr, t.send.resolve 0x00, s.received t.chip t.hdr (t.send.resolve 0x00) t.nin, .ok⟩)).complete
        []) := by
  rw [exec_of_plan_onBus hp hinit, State.runTxns_of_ready _ _ h, State.runTxns_nil]

theorem exec_single_of_timeout (h : s.pollReady t.chip t.hdr (t.send.resolve 0x00) t.nin = false) :
    exec i s = .next ((s.afterXfer ⟨t.chip, t.hdr, [], [], .timeout⟩).completed
      (if t.zeroResOnTimeout then 0x00000000 else s.res) [.transportTimeout]) := by
  rw [exec_of_plan_onBus hp hinit, State.runTxns_of_timeout _ _ h, Txn.onTimeout_complete, State.afterXfer_res, addEvent_nil]

end

/-! ### The transaction of each bus command (R108 to R113) -/

theorem plan_wrReg (c : Chip) (a : Addr) (d : Byte) (s : State) :
    plan (.wrReg c a d) s = s.onBus (s.start [] [⟨c, hdrWrite a, .bytes [d], 0, .nothing, false⟩]) := rfl

theorem plan_rdReg (c : Chip) (a : Addr) (s : State) :
    plan (.rdReg c a) s = s.onBus (s.start [] [⟨c, hdrRead a, .bytes [], 1, .byteToRes, true⟩]) := rfl

theorem plan_wrBurst (c : Chip) (a : Addr) (n : Nat) (s : State) : plan (.wrBurst c a n) s =
    s.onBus (s.start [] [⟨c, hdrBurstWrite a, .bytes (s.buf.readBytes 0 n), 0, .nothing, false⟩]) := rfl

theorem plan_rdBurst (c : Chip) (a : Addr) (n : Nat) (s : State) :
    plan (.rdBurst c a n) s = s.onBus (s.start [] [⟨c, hdrBurstRead a, .bytes [], n, .burstToBuf, true⟩]) := rfl

theorem plan_strobe (c : Chip) (a : Addr) (s : State) :
    plan (.strobe c a) s = s.onBus (s.start [] [⟨c, hdrStrobe a, .bytes [], 0, .nothing, false⟩]) := rfl

theorem plan_rdStatus (c : Chip) (a : Addr) (s : State) :
    plan (.rdStatus c a) s = s.onBus (s.start [] [⟨c, hdrStatus a, .bytes [], 1, .byteToRes, true⟩]) := rfl

/-! ### Single transfers (R108, R109, R112, R113) -/

/-- Settles O36: the transactions receive nothing and put nothing into RES. -/
theorem writeAndStrobeResults : Obligations.WriteAndStrobeResults := fun c a s hinit =>
  ⟨fun d => ⟨exec_single_of_ready (plan_wrReg c a d s) hinit, exec_single_of_timeout (plan_wrReg c a d s) hinit⟩,
    exec_single_of_ready (plan_strobe c a s) hinit, exec_single_of_timeout (plan_strobe c a s) hinit⟩

/-- Settles O37: the transactions receive one byte (`State.received_one`), which goes to RES. -/
theorem readRegAndStatusResults : Obligations.ReadRegAndStatusResults := fun c a s hinit =>
  ⟨exec_single_of_ready (plan_rdReg c a s) hinit, exec_single_of_timeout (plan_rdReg c a s) hinit,
    exec_single_of_ready (plan_rdStatus c a s) hinit, exec_single_of_timeout (plan_rdStatus c a s) hinit⟩

/-! ### Bursts (R110, R111) -/

theorem Memory.eq_readBytes {m : Memory} {n : Nat} {bs : List Byte} (hlen : bs.length = n)
    (hread : ∀ k < n, bs[k]? = some (m.read k)) : bs = m.readBytes 0 n := by
  refine List.ext_getElem? fun k => ?_
  rcases Nat.lt_or_ge k n with hk | hk
  · simp [hread k hk, Memory.readBytes, hk]
  · rw [List.getElem?_eq_none (by omega), List.getElem?_eq_none (by simpa using hk)]

/-- Settles O38: the bytes sent are BUF's first n. -/
theorem writeBurstSendsTheBuffer : Obligations.WriteBurstSendsTheBuffer := by
  intro c a n s _ _ hinit out hlen hread
  obtain rfl := Memory.eq_readBytes hlen hread
  exact ⟨exec_single_of_ready (plan_wrBurst c a n s) hinit, exec_single_of_timeout (plan_wrBurst c a n s) hinit⟩

section
variable {m : Memory} {bs : List Byte} (h : m.wf = true) (hlen : bs.length ≤ Config.bufBytes)
include h hlen

theorem Memory.read_writeBytes_zero_of_lt {k : Nat} (hk : k < bs.length) : some ((m.writeBytes 0 bs).read k) = bs[k]? := by
  rw [Memory.read_writeBytes bs 0 k h (by simpa using hlen), if_pos (by simpa using hk)]
  simp [hk]

theorem Memory.read_writeBytes_zero_of_ge {k : Nat} (hk : bs.length ≤ k) : (m.writeBytes 0 bs).read k = m.read k := by
  rw [Memory.read_writeBytes bs 0 k h (by simpa using hlen), if_neg (by omega)]

end

/-- Settles O39: the new BUF is the old one with the received bytes written from index 0 on, and RES their count. -/
theorem readBurstFillsTheBuffer : Obligations.ReadBurstFillsTheBuffer := by
  intro c a n s _ hn hinit hwf
  refine ⟨fun hready => ?_, exec_single_of_timeout (plan_rdBurst c a n s) hinit⟩
  have hlen : (s.received c (hdrBurstRead a) [] n).length = n := s.received_length _ _ _ _
  have hfits : (s.received c (hdrBurstRead a) [] n).length ≤ Config.bufBytes := hlen.trans_le hn
  refine ⟨_, s.buf.writeBytes 0 (s.received c (hdrBurstRead a) [] n), rfl, hlen, Memory.writeBytes_wf _ hwf (by simpa using hn),
    fun k hk => Memory.read_writeBytes_zero_of_lt hwf hfits (by omega),
    fun k hk => Memory.read_writeBytes_zero_of_ge hwf hfits (by omega), ?_⟩
  have hres : BitVec.ofNat 32 n = BitVec.ofNat 32 (s.received c (hdrBurstRead a) [] n).length := by rw [hlen]
  rw [hres]
  exact exec_single_of_ready (plan_rdBurst c a n s) hinit hready

end Sys2Proof.Machine
end

section
/-! Packed registers (41_bitfield.md R130 to R135, R142): the slots of a register tile its byte, so that raw values within their
max and the bytes are two forms of the same thing, and the lanes of RES are a third. -/

namespace Sys2Proof.Machine

/-! ### The slots tile the byte (R131) -/

/-- The slots lie side by side, highest first: the first ends below bit hi, the last begins at bit 0. -/
def Tiles : Nat → List Slot → Prop
  | hi, [] => hi = 0
  | hi, sl :: sls => sl.lo + sl.width = hi ∧ Tiles sl.lo sls

theorem tiles_slots (r : PackedReg) : Tiles 8 (slots r) := by cases r <;> simp [slots, Tiles]

/-- One raw value for each slot, within the slot's max. -/
abbrev Fits (raw : List Nat) (sls : List Slot) : Prop := List.Forall₂ (fun x sl => x ≤ sl.max) raw sls

theorem Slot.le_max_iff {sl : Slot} {x : Nat} : x ≤ sl.max ↔ x < 2 ^ sl.width :=
  Nat.le_sub_one_iff_lt (Nat.two_pow_pos _)

@[simp] theorem encodingSum_nil : encodingSum [] [] = 0 := rfl

@[simp] theorem encodingSum_cons (x : Nat) (raw : List Nat) (sl : Slot) (sls : List Slot) :
    encodingSum (x :: raw) (sl :: sls) = x * 2 ^ sl.lo + encodingSum raw sls := rfl

theorem slotValue_eq (v : Byte) (sl : Slot) : slotValue v sl = v.toNat / 2 ^ sl.lo % 2 ^ sl.width := by
  rw [slotValue, BitVec.extractLsb'_toNat, Nat.shiftRight_eq_div_pow]

theorem fits_map_slotValue (v : Byte) (sls : List Slot) : Fits (sls.map (slotValue v)) sls := by
  induction sls with
  | nil => exact .nil
  | cons sl sls ih => exact .cons (slotValue_le v sl) ih

theorem encodingSum_lt {raw : List Nat} {sls : List Slot} {hi : Nat} (ht : Tiles hi sls) (hf : Fits raw sls) :
    encodingSum raw sls < 2 ^ hi := by
  induction hf generalizing hi with
  | nil => exact Nat.two_pow_pos hi
  | @cons x sl raw sls hx hf ih =>
    obtain ⟨rfl, ht⟩ := ht
    have hx : x < 2 ^ sl.width := Slot.le_max_iff.1 hx
    calc encodingSum (x :: raw) (sl :: sls)
      _ = x * 2 ^ sl.lo + encodingSum raw sls := encodingSum_cons x raw sl sls
      _ < (x + 1) * 2 ^ sl.lo := by linarith [ih ht]
      _ ≤ 2 ^ sl.width * 2 ^ sl.lo := Nat.mul_le_mul_right _ hx
      _ = 2 ^ (sl.lo + sl.width) := by ring

/-- The fields of a byte sum up to the part of it they tile. -/
theorem encodingSum_map_slotValue {sls : List Slot} {hi : Nat} (ht : Tiles hi sls) (v : Byte) :
    encodingSum (sls.map (slotValue v)) sls = v.toNat % 2 ^ hi := by
  induction sls generalizing hi with
  | nil =>
    obtain rfl : hi = 0 := ht
    simp [Nat.mod_one]
  | cons sl sls ih =>
    obtain ⟨rfl, ht⟩ := ht
    rw [List.map_cons, encodingSum_cons, ih ht, slotValue_eq, Nat.pow_add, Nat.mod_mul]
    ring

/-- A byte whose tiled part is the sum of these raw values has them as its fields. -/
theorem map_slotValue_of_encodingSum {raw : List Nat} {sls : List Slot} {hi : Nat} {v : Byte} (ht : Tiles hi sls)
    (hf : Fits raw sls) (hv : v.toNat % 2 ^ hi = encodingSum raw sls) : sls.map (slotValue v) = raw := by
  induction hf generalizing hi with
  | nil => rfl
  | @cons x sl raw sls hx hf ih =>
    obtain ⟨rfl, ht⟩ := ht
    rw [encodingSum_cons, Nat.pow_add] at hv
    have hlow : encodingSum raw sls < 2 ^ sl.lo := encodingSum_lt ht hf
    have htail : v.toNat % 2 ^ sl.lo = encodingSum raw sls := by
      rw [← Nat.mod_mul_right_mod v.toNat (2 ^ sl.lo) (2 ^ sl.width), hv, Nat.mul_add_mod_self_right, Nat.mod_eq_of_lt hlow]
    have hhead : slotValue v sl = x := by
      rw [slotValue_eq, ← Nat.mod_mul_right_div_self, hv, Nat.mul_comm, Nat.mul_add_div (Nat.two_pow_pos _),
        Nat.div_eq_of_lt hlow, Nat.add_zero]
    rw [List.map_cons, hhead, ih ht htail]

/-! ### Peel and recompose (R132, R133) -/

theorem fits_peel (v : Byte) (r : PackedReg) : Fits (peel v r) (slots r) := fits_map_slotValue v (slots r)

/-- The sum of fitting raw values loses no bit (R133). -/
theorem recompose_toNat {raw : List Nat} {r : PackedReg} (hf : Fits raw (slots r)) :
    (recompose raw r).toNat = encodingSum raw (slots r) := by
  rw [recompose, BitVec.toNat_ofNat, Nat.mod_eq_of_lt (encodingSum_lt (tiles_slots r) hf)]

theorem peel_recompose {raw : List Nat} {r : PackedReg} (hf : Fits raw (slots r)) : peel (recompose raw r) r = raw := by
  refine map_slotValue_of_encodingSum (tiles_slots r) hf ?_
  rw [Nat.mod_eq_of_lt (recompose raw r).isLt, recompose_toNat hf]

/-- R142's first half. -/
theorem recompose_peel (v : Byte) (r : PackedReg) : recompose (peel v r) r = v := by
  refine BitVec.eq_of_toNat_eq ?_
  rw [recompose_toNat (fits_peel v r), peel, encodingSum_map_slotValue (tiles_slots r), Nat.mod_eq_of_lt v.isLt]

/-! ### Fields by their id (R134, R141) -/

theorem fieldMax_of_lt {r : PackedReg} {fid : Nat} (h : fid < (slots r).length) : fieldMax r fid = (slots r)[fid].max := by
  rw [fieldMax, List.getElem?_eq_getElem h, Option.map_some, Option.getD_some]

/-- Fitting, field by field. -/
theorem fits_slots_iff {raw : List Nat} {r : PackedReg} :
    Fits raw (slots r) ↔ raw.length = r.nf ∧ ∀ k, (h : k < raw.length) → raw[k] ≤ fieldMax r k := by
  rw [Fits, List.forall₂_iff_get, ← slots_length]
  refine and_congr_right fun hlen => forall_congr' fun k => forall_congr' fun hk => ?_
  have hk' : k < (slots r).length := hlen ▸ hk
  rw [fieldMax_of_lt hk']
  exact forall_prop_of_true hk'

theorem Fits.length_eq_nf {raw : List Nat} {r : PackedReg} (hf : Fits raw (slots r)) : raw.length = r.nf :=
  (fits_slots_iff.1 hf).1

theorem Fits.getElem_le {raw : List Nat} {r : PackedReg} (hf : Fits raw (slots r)) {k : Nat} (hk : k < raw.length) :
    raw[k] ≤ fieldMax r k :=
  (fits_slots_iff.1 hf).2 k hk

theorem Fits.set {raw : List Nat} {r : PackedReg} {fid x : Nat} (hf : Fits raw (slots r)) (hx : x ≤ fieldMax r fid) :
    Fits (raw.set fid x) (slots r) := by
  refine fits_slots_iff.2 ⟨(List.length_set ..).trans hf.length_eq_nf, fun k hk => ?_⟩
  rw [List.getElem_set]
  split
  next heq => exact heq ▸ hx
  next => exact hf.getElem_le _

/-- Replacing one field replaces that raw value and no other (R141). -/
theorem peel_replaceField {b : Byte} {r : PackedReg} {fid x : Nat} (hx : x ≤ fieldMax r fid) :
    peel (replaceField b r fid x) r = (peel b r).set fid x :=
  peel_recompose ((fits_peel b r).set hx)

/-! ### Lanes (R135) -/

theorem lane_toNat (w : Word) (k : Nat) : (lane w k).toNat = w.toNat / 256 ^ k % 256 := by
  rw [lane, BitVec.extractLsb'_toNat, Nat.shiftRight_eq_div_pow, Nat.pow_mul]

theorem lanesOf_lt {raw : List Nat} (h : ∀ x ∈ raw, x < 256) : lanesOf raw < 256 ^ raw.length := by
  induction raw with
  | nil => exact Nat.one_pos
  | cons x raw ih =>
    obtain ⟨hx, hraw⟩ := List.forall_mem_cons.1 h
    have htail : lanesOf raw < 256 ^ raw.length := ih hraw
    rw [lanesOf, List.length_cons, Nat.pow_succ]
    omega

theorem lanesOf_div_mod {raw : List Nat} (h : ∀ x ∈ raw, x < 256) {k : Nat} (hk : k < raw.length) :
    lanesOf raw / 256 ^ k % 256 = raw[k] := by
  induction raw generalizing k with
  | nil => cases hk
  | cons x raw ih =>
    obtain ⟨hx, hraw⟩ := List.forall_mem_cons.1 h
    cases k with
    | zero => rw [lanesOf, List.getElem_cons_zero]; omega
    | succ k =>
      have hshift : lanesOf (x :: raw) / 256 = lanesOf raw := by rw [lanesOf]; omega
      rw [Nat.pow_succ', ← Nat.div_div_eq_div_mul, hshift, List.getElem_cons_succ, ih hraw]

theorem lane_resLanes {raw : List Nat} (h : ∀ x ∈ raw, x < 256) (hlen : raw.length ≤ 4) {k : Nat} (hk : k < raw.length) :
    (lane (resLanes raw) k).toNat = raw[k] := by
  have hlt : lanesOf raw < 2 ^ 32 := (lanesOf_lt h).trans_le (Nat.pow_le_pow_right (n := 256) (by decide) hlen)
  rw [lane_toNat, resLanes, BitVec.toNat_ofNat, Nat.mod_eq_of_lt hlt, lanesOf_div_mod h hk]

theorem nf_le (r : PackedReg) : r.nf ≤ 4 := by cases r <;> decide

theorem fieldMax_lt (r : PackedReg) : ∀ fid < r.nf, fieldMax r fid < 256 := by cases r <;> decide

theorem lane_resLanes_of_fits {raw : List Nat} {r : PackedReg} (hf : Fits raw (slots r)) {k : Nat} (hk : k < raw.length) :
    (lane (resLanes raw) k).toNat = raw[k] := by
  have hlen := hf.length_eq_nf
  refine lane_resLanes (fun x hx => ?_) (hlen.trans_le (nf_le r)) hk
  obtain ⟨j, hj, rfl⟩ := List.getElem_of_mem hx
  exact (hf.getElem_le hj).trans_lt (fieldMax_lt r j (hlen ▸ hj))

/-! ### Clamped lanes (R134, R138) -/

theorem clampLanes_fst (w : Word) (r : PackedReg) :
    (clampLanes w r).1 = (List.range r.nf).map fun k => min (lane w k).toNat (fieldMax r k) := by
  simp [clampLanes, clampf]

theorem clampLanes_snd (w : Word) (r : PackedReg) :
    (clampLanes w r).2 = decide (∃ k < r.nf, fieldMax r k < (lane w k).toNat) := by
  rw [Bool.eq_iff_iff]
  simp [clampLanes, clampf]

theorem fits_clampLanes (w : Word) (r : PackedReg) : Fits (clampLanes w r).1 (slots r) :=
  fits_slots_iff.2 ⟨by simp [clampLanes_fst], fun k hk => by simp [clampLanes_fst]⟩

/-- The lanes of fitting raw values are read back, and none clamps. -/
theorem clampLanes_resLanes {raw : List Nat} {r : PackedReg} (hf : Fits raw (slots r)) :
    clampLanes (resLanes raw) r = (raw, false) := by
  have hlen := hf.length_eq_nf
  have hlane : ∀ k, (h : k < raw.length) → (lane (resLanes raw) k).toNat = raw[k] := fun k h => lane_resLanes_of_fits hf h
  refine Prod.ext ?_ ?_
  · rw [clampLanes_fst]
    refine List.ext_getElem (by simp [hlen]) fun k _ hk => ?_
    rw [List.getElem_map, List.getElem_range, hlane k hk, min_eq_left (hf.getElem_le hk)]
  · rw [clampLanes_snd]
    refine decide_eq_false ?_
    rintro ⟨k, hk, hclamp⟩
    rw [← hlen] at hk
    rw [hlane k hk] at hclamp
    exact absurd hclamp (hf.getElem_le hk).not_gt

/-- The sum of the encodings, field by field. -/
theorem encodingSum_map_range (f : Nat → Nat) (sls : List Slot) :
    encodingSum ((List.range sls.length).map f) sls =
      ((List.range sls.length).map fun k => f k * ((sls[k]?).map Slot.weight).getD 0).sum := by
  refine congrArg List.sum (List.ext_getElem (by simp) fun k hk _ => ?_)
  have hk : k < sls.length := by simpa using hk
  simp [hk]

end Sys2Proof.Machine
end

section
/-! The bitfield commands (41_bitfield.md R137 to R143): FDEC and FENC issue no transaction, DECOMP and FGET one, FSET two. -/

namespace Sys2Proof.Machine

/-! ### FDEC and FENC (R137, R138, R142) -/

theorem exec_fdec (r : PackedReg) (d : Byte) (s : State) :
    exec (.fdec r d) s = .next (s.completed (resLanes (peel d r)) []) :=
  exec_of_plan_start_nil (u := s.setRes (resLanes (peel d r))) rfl

theorem exec_fenc (r : PackedReg) (s : State) : exec (.fenc r) s =
    .next (s.completed (resByte (recompose (clampLanes s.opaLo r).1 r)) (clampEvents (clampLanes s.opaLo r).2)) :=
  exec_of_plan_start_nil (u := s.setRes (resByte (recompose (clampLanes s.opaLo r).1 r))) rfl

theorem clampEvents_decide (p : Prop) [Decidable p] :
    clampEvents (decide p) = if p then [Event.invalidParameter] else [] := by
  simp [clampEvents]

/-- Settles O41: the clamped lanes fit their slots, so the byte is the sum of their encodings. -/
theorem fencRecomposesTheClampedLanes : Obligations.FencRecomposesTheClampedLanes := by
  intro r s
  refine ⟨_, _, exec_fenc r s, ?_, ?_⟩
  · rw [recompose_toNat (fits_clampLanes s.opaLo r), clampLanes_fst, ← slots_length, encodingSum_map_range]
    rfl
  · rw [clampLanes_snd, clampEvents_decide]
    rfl

/-- Settles O44: the fields of a byte fit their slots, and fitting raw values survive the lanes. -/
theorem fencOfFdecReturnsTheByte : Obligations.FencOfFdecReturnsTheByte := by
  refine ⟨fun r v => recompose_peel v r, fun r v s t ht => ?_⟩
  rw [exec_fdec] at ht
  cases ht
  have hlanes : clampLanes (resLanes (peel v r)) r = (peel v r, false) := clampLanes_resLanes (fits_peel v r)
  simp only [exec_fenc, State.completed, hlanes, recompose_peel]
  rfl

/-- RES as one number. -/
theorem exec_fdec_of_lanesOf {r : PackedReg} {d : Byte} {n : Nat} (h : lanesOf (peel d r) = n) (s : State) :
    exec (.fdec r d) s = .next (s.completed n []) := by
  rw [exec_fdec, resLanes, h]
  rfl

/-- Settles O40: each register's slots, as division and remainder of the byte. -/
theorem fdecDecomposesTheByte : Obligations.FdecDecomposesTheByte := by
  intro d s
  have hd : d.toNat < 256 := d.isLt
  refine ⟨exec_fdec_of_lanesOf ?_ s, exec_fdec_of_lanesOf ?_ s, exec_fdec_of_lanesOf ?_ s, exec_fdec_of_lanesOf ?_ s,
    exec_fdec_of_lanesOf ?_ s⟩ <;>
  · simp only [peel, slots, List.map_cons, List.map_nil, slotValue_eq, lanesOf, Nat.reducePow]
    omega

/-! ### DECOMP and FGET (R139, R140) -/

theorem plan_decomp (c : Chip) (r : PackedReg) (s : State) : plan (.decomp c r) s =
    s.onBus (s.start [] [liveReadOrZero c (regAddr s.params.regaddr r) (.lanesToRes r)]) := rfl

theorem plan_fget (c : Chip) (r : PackedReg) (fid : Nat) (s : State) : plan (.fget c r fid) s =
    s.onBus (s.start [] [liveReadOrZero c (regAddr s.params.regaddr r) (.fieldToRes r fid)]) := rfl

/-- Settles O42: the table's rows are literals; then the two outcomes of the one live read. -/
theorem decompAndFgetReadTheLiveRegister : Obligations.DecompAndFgetReadTheLiveRegister := by
  refine ⟨fun t => ?_, fun c r s hinit => ⟨fun hready => ?_, fun htimeout => ?_⟩⟩
  · exact ⟨⟨rfl, rfl, rfl, rfl⟩, ⟨rfl, rfl, rfl, rfl⟩, ⟨rfl, rfl, rfl, rfl⟩, ⟨rfl, rfl, rfl, rfl⟩, rfl, rfl, rfl, rfl⟩
  · refine ⟨exec_single_of_ready (plan_decomp c r s) hinit hready, fun fid x hx => ?_⟩
    obtain rfl : (peel (s.answerByte c (hdrRead (regAddr s.params.regaddr r))) r).getD fid 0 = x := by
      rw [List.getD_eq_getElem?_getD, hx, Option.getD_some]
    exact exec_single_of_ready (plan_fget c r fid s) hinit hready
  · exact ⟨exec_single_of_timeout (plan_decomp c r s) hinit htimeout,
      fun fid => exec_single_of_timeout (plan_fget c r fid s) hinit htimeout⟩

/-! ### FSET (R141) -/

theorem plan_fset (c : Chip) (r : PackedReg) (fid : Nat) (val : Byte) (s : State) : plan (.fset c r fid val) s =
    s.onBus (s.start (clampEvents (decide (fieldMax r fid < val.toNat)))
      [liveReadOrZero c (regAddr s.params.regaddr r) (.putField r fid (min val.toNat (fieldMax r fid))),
        liveWriteHeld c (regAddr s.params.regaddr r)]) := rfl

/-- Settles O43: the read times out, or the write does, or neither. -/
theorem fsetReplacesOneField : Obligations.FsetReplacesOneField := by
  intro c r fid val s _ hinit hr hw v evs b new s1
  have hevs : clampEvents (decide (fieldMax r fid < val.toNat)) = evs := clampEvents_decide _
  have hrun := exec_of_plan_onBus (plan_fset c r fid val s) hinit
  rw [hevs] at hrun
  have htimeout : addEvent .transportTimeout evs = evs ++ [.transportTimeout] := hevs ▸ addEvent_timeout_clampEvents _
  refine ⟨fun hread => ?_, fun hread hwrite => ?_, fun hread hwrite => ?_⟩
  · rw [hrun, State.runTxns_of_timeout _ _ hread, htimeout]
    rfl
  · rw [hrun, State.runTxns_of_ready _ _ hread, State.runTxns_of_timeout _ _ hwrite, htimeout]
    rfl
  · rw [hrun, State.runTxns_of_ready _ _ hread, State.runTxns_of_ready _ _ hwrite]
    rfl

/-! ### FSET, then FGET (R143) -/

theorem causeOf_clamp_append_timeout (p : Prop) [Decidable p] :
    causeOf ((if p then [.invalidParameter] else []) ++ [.transportTimeout]) = 1 := by
  split <;> rfl

/-- An FSET that reports no timeout has read, and has written the byte that RES holds. -/
theorem res_of_exec_fset {c : Chip} {r : PackedReg} {fid : Nat} {val : Byte} {s t : State} (hfid : fid < r.nf)
    (hinit : s.status.init = true) (h : exec (.fset c r fid val) s = .next t) (hcause : t.status.cause ≠ 1) :
    t.res = resByte (replaceField (s.answerByte c (hdrRead (regAddr s.params.regaddr r))) r fid
      (min val.toNat (fieldMax r fid))) := by
  obtain ⟨hreadTimeout, hwriteTimeout, hboth⟩ := fsetReplacesOneField c r fid val s hfid hinit
  cases hread : s.pollReady c (hdrRead (regAddr s.params.regaddr r)) [] 1 with
  | false =>
    rw [hreadTimeout hread] at h
    cases h
    exact absurd (causeOf_clamp_append_timeout _) hcause
  | true =>
    cases hwrite : State.pollReady _ c (hdrWrite (regAddr s.params.regaddr r)) _ 0 with
    | false =>
      rw [hwriteTimeout hread hwrite] at h
      cases h
      exact absurd (causeOf_clamp_append_timeout _) hcause
    | true =>
      rw [hboth hread hwrite] at h
      cases h
      rfl

theorem getD_peel_lt {r : PackedReg} {g : Nat} (hg : g < r.nf) (v : Byte) : (peel v r).getD g 0 < 256 := by
  have hg' : g < (peel v r).length := by rwa [peel_length]
  rw [← List.getElem_eq_getD (h := hg')]
  exact ((fits_peel v r).getElem_le hg').trans_lt (fieldMax_lt r g hg)

/-- An FGET that reports nothing has read, and RES is the field of the chip's byte. -/
theorem res_of_exec_fget {c : Chip} {r : PackedReg} {g : Nat} {s t : State} (hg : g < r.nf)
    (hinit : s.status.init = true) (h : exec (.fget c r g) s = .next t) (hcause : t.status.cause = 0) :
    t.res.toNat = (peel (s.answerByte c (hdrRead (regAddr s.params.regaddr r))) r).getD g 0 := by
  cases hread : s.pollReady c (hdrRead (regAddr s.params.regaddr r)) [] 1 with
  | false =>
    rw [exec_single_of_timeout (plan_fget c r g s) hinit hread] at h
    cases h
    exact absurd hcause (by decide : causeOf [.transportTimeout] ≠ 0)
  | true =>
    rw [exec_single_of_ready (plan_fget c r g s) hinit hread] at h
    cases h
    exact Nat.mod_eq_of_lt ((getD_peel_lt hg _).trans (by decide))

theorem resByte_injective : Function.Injective resByte := fun b b' h => by
  simpa [resByte] using congrArg (BitVec.setWidth 8) h

/-- Settles O45: the byte kept is the byte read with one field replaced, and FGET peels it. -/
theorem fsetPreservesSiblings : Obligations.FsetPreservesSiblings := by
  intro c r fid g val s t u hfid hg hinit hset hnoTimeout hget hcause ⟨b, hb, hanswer⟩
  obtain ⟨-, -, -, -, -, -, -, hparams, -, -, -, -, hbus, -, -⟩ := commandFrame _ _ _ hset
  have hinit' : t.status.init = true := (hbus (by simp)).1.trans hinit
  have hkept : b = _ := resByte_injective (hb.symm.trans (res_of_exec_fset hfid hinit hset hnoTimeout))
  have hfield := res_of_exec_fget hg hinit' hget hcause
  rw [hparams, hanswer, hkept, peel_replaceField (min_le_right _ _)] at hfield
  refine ⟨fun hne => ?_, fun heq => ?_⟩
  · simp [hfield, List.getElem?_set_ne hne.symm]
  · simp [hfield, heq, hfid]

end Sys2Proof.Machine
end

section
/-! The frequency word (42_frequency.md R160 to R163): a subtraction loop is a division with remainder, so the loops' counts are
the quotients of the closed form; each count stays below 256, so neither the carry nor the narrowing to a byte changes it. -/

namespace Sys2Proof.Machine

/-! ### The subtraction loops (R161) -/

/-- The loop ends by its own condition when its turns suffice for the quotient. -/
theorem subtractLoop_eq_div_mod {step : Nat} (hstep : 0 < step) (fuel f n : Nat) (hf : f / step ≤ fuel) :
    subtractLoop step fuel f n = (n + f / step, f % step) := by
  induction fuel generalizing f n with
  | zero =>
    have hlt : f < step := (Nat.div_eq_zero_iff_lt hstep).mp (Nat.le_zero.mp hf)
    simp [subtractLoop, Nat.div_eq_of_lt hlt, Nat.mod_eq_of_lt hlt]
  | succ fuel ih =>
    unfold subtractLoop
    split
    next hle =>
      have hdiv : f / step = (f - step) / step + 1 := Nat.div_eq_sub_div hstep hle
      rw [ih (f - step) (n + 1) (by omega), hdiv, Nat.mod_eq_sub_mod hle]
      congr 1
      omega
    next hlt => simp [Nat.div_eq_of_lt (not_le.mp hlt), Nat.mod_eq_of_lt (not_le.mp hlt)]

/-! ### The counts fit a byte (R162) -/

theorem freqHigh_le {f : Nat} (h : f ≤ Config.freqMax) : f / Config.freqS2 ≤ 255 :=
  Nat.le_of_lt_succ (Nat.div_lt_of_lt_mul (h.trans_lt (by decide)))

theorem freqMid_le (f : Nat) : f % Config.freqS2 / Config.freqS1 ≤ 255 :=
  Nat.le_of_lt_succ (Nat.div_lt_of_lt_mul (Nat.mod_lt f (by decide)))

/-- 256 low steps exceed one mid step. -/
theorem freqLow_le (f : Nat) : f % Config.freqS2 % Config.freqS1 / Config.freqS0 ≤ 255 :=
  Nat.le_of_lt_succ (Nat.div_lt_of_lt_mul ((Nat.mod_lt _ (by decide)).trans (by decide : Config.freqS1 < 39675 * 256)))

/-- The carry never fires. -/
theorem freqCounts_eq (f : Nat) : freqCounts f =
    (f / Config.freqS2, f % Config.freqS2 / Config.freqS1, f % Config.freqS2 % Config.freqS1 / Config.freqS0) :=
  if_neg (not_lt.mpr (freqLow_le f))

theorem freqCountsByLoops_eq {f : Nat} (h : f ≤ Config.freqMax) : freqCountsByLoops f = freqCounts f := by
  simp only [freqCountsByLoops, freqCounts, subtractLoop_eq_div_mod (by decide : 0 < Config.freqS2) 255 f 0 (freqHigh_le h),
    subtractLoop_eq_div_mod (by decide : 0 < Config.freqS1) 255 _ 0 (freqMid_le f),
    subtractLoop_eq_div_mod (by decide : 0 < Config.freqS0) 255 _ 0 (freqLow_le f), Nat.zero_add]

/-- Settles O48: each loop is a division, and the three quotients fit a byte. -/
theorem freqCountsAreTheSubtractionLoops : Obligations.FreqCountsAreTheSubtractionLoops := by
  intro f h
  refine ⟨(freqCountsByLoops_eq h).symm, ?_, ?_, ?_, freqLow_le f⟩ <;> rw [freqCounts_eq]
  · exact freqHigh_le h
  · exact freqMid_le f
  · exact freqLow_le f

/-! ### The word (R161, R163) -/

theorem freqword_of_le {f : Nat} (h : f ≤ Config.freqMax) : freqword f =
    ⟨BitVec.ofNat 8 (freqCounts f).1, BitVec.ofNat 8 (freqCounts f).2.1, BitVec.ofNat 8 (freqCounts f).2.2, false⟩ := by
  rw [freqword, clampq_of_mem (Nat.zero_le f) h]

theorem freqword_of_gt {f : Nat} (h : Config.freqMax < f) : freqword f = ⟨0xFF, 0xFF, 0xFF, true⟩ := by
  rw [freqword, clampq_of_gt h]
  rfl

/-- The greedy reduction gives back its input but for a remainder below the last step. -/
theorem freqCounts_sum (f : Nat) :
    (freqCounts f).1 * 2600000000 + (freqCounts f).2.1 * 10156250 + (freqCounts f).2.2 * 39675 +
      f % 2600000000 % 10156250 % 39675 = f := by
  rw [freqCounts_eq]
  simp only [Config.freqS2, Config.freqS1, Config.freqS0]
  omega

/-- Settles O49: no byte is narrowed, and the counts give back the input but for the last remainder. -/
theorem freqWordTruncatesBelowOneStep : Obligations.FreqWordTruncatesBelowOneStep := by
  refine ⟨fun f h => ?_, fun f => freqword_of_gt⟩
  obtain ⟨-, hhigh, hmid, hlow, -⟩ := freqCountsAreTheSubtractionLoops f h
  have hsum := freqCounts_sum f
  have hrem : f % 2600000000 % 10156250 % 39675 < 39675 := Nat.mod_lt _ (by decide)
  have hbyte {n : Nat} (hn : n ≤ 255) : n % 2 ^ 8 = n := Nat.mod_eq_of_lt (Nat.lt_succ_of_le hn)
  simp only [freqword_of_le h, BitVec.toNat_ofNat, hbyte hhigh, hbyte hmid, hbyte hlow, true_and]
  omega

end Sys2Proof.Machine
end

section
/-! The encoders without a transaction (42_frequency.md R164; 43_link.md R183, R186, R189, R192) and SET_FREQ (R165): RES is
written first, then the transactions leave it alone. -/

namespace Sys2Proof.Machine

/-! ### The encoders -/

/-- The two parts of the layout do not overlap. -/
theorem resExpMant_eq {e m : Nat} (hm : m ≤ 255) : resExpMant e m = (256 * e + m : Nat) := by
  have hm' : m < 2 ^ 8 := Nat.lt_succ_of_le hm
  refine BitVec.eq_of_toNat_eq ?_
  have hshift : (e % 2 ^ 32) <<< 8 % 2 ^ 32 = 2 ^ 8 * (e % 2 ^ 24) := by
    rw [Nat.shiftLeft_eq]
    omega
  have hlow : m % 2 ^ 32 = m := Nat.mod_eq_of_lt (by omega)
  calc (resExpMant e m).toNat = 2 ^ 8 * (e % 2 ^ 24) ||| m := by
        simp only [resExpMant, BitVec.toNat_or, BitVec.toNat_shiftLeft, BitVec.toNat_ofNat, hshift, hlow]
    _ = 2 ^ 8 * (e % 2 ^ 24) + m := (Nat.two_pow_add_eq_or_of_lt hm' _).symm
    _ = (256 * e + m) % 2 ^ 32 := by omega

theorem clampEvents_clampq (q lo hi : Nat) :
    clampEvents (clampq q lo hi).2 = if q < lo ∨ hi < q then [Event.invalidParameter] else [] := by
  rw [clampq, ← Bool.decide_or, clampEvents_decide]

theorem clampEvents_freqword (f : Nat) :
    clampEvents (freqword f).clamped = if Config.freqMax < f then [Event.invalidParameter] else [] := by
  have hclamped : (freqword f).clamped = (clampq f 0 Config.freqMax).2 := rfl
  simp [hclamped, clampEvents_clampq]

/-- A command without a transaction that writes RES first. -/
theorem exec_of_plan_setRes_start_nil {i : Instr} {s : State} {v res : Word} {evs evs' : List Event}
    (hp : plan i s = (s.setRes v).start evs []) (hv : v = res) (hevs : evs = evs') :
    exec i s = .next (s.completed res evs') := by
  subst hv hevs
  exact exec_of_plan_start_nil hp

/-- Settles O55: each encoder's layout of RES and its clamp condition. -/
theorem encodersWriteOnlyRes : Obligations.EncodersWriteOnlyRes := fun s =>
  ⟨exec_of_plan_setRes_start_nil rfl rfl (clampEvents_freqword s.opa),
    exec_of_plan_setRes_start_nil rfl (resExpMant_eq (mantissa_le _ _)) (clampEvents_clampq s.opa Config.drL Config.drU),
    exec_of_plan_setRes_start_nil rfl rfl (clampEvents_clampq s.opa Config.dvL Config.dvU),
    exec_of_plan_setRes_start_nil rfl rfl rfl,
    exec_of_plan_setRes_start_nil rfl (resExpMant_eq (mantissa_le _ _)) (clampEvents_clampq s.opa Config.csL Config.csU)⟩

/-! ### Live writes after RES (R165) -/

section
variable {c : Chip} {a : Addr} {v : Byte} {s : State} (res : Word) (ts : List Txn) (held : Byte) (evs : List Event)

theorem State.runTxns_liveWrite_of_ready (h : s.pollReady c (hdrWrite a) [v] 0 = true) :
    (s.setRes res).runTxns (liveWrite c a v :: ts) held evs =
      ((s.afterXfer ⟨c, hdrWrite a, [v], [], .ok⟩).setRes res).runTxns ts held evs :=
  State.runTxns_of_ready (t := liveWrite c a v) (s := s.setRes res) ts evs h

theorem State.runTxns_liveWrite_of_timeout (h : s.pollReady c (hdrWrite a) [v] 0 = false) :
    (s.setRes res).runTxns (liveWrite c a v :: ts) held evs =
      (s.afterXfer ⟨c, hdrWrite a, [], [], .timeout⟩).completed res (addEvent .transportTimeout evs) :=
  State.runTxns_of_timeout (t := liveWrite c a v) (s := s.setRes res) ts evs h

end

theorem plan_setFreq (c : Chip) (s : State) : plan (.setFreq c) s =
    s.onBus ((s.setRes (resFreq (freqword s.opa).f2 (freqword s.opa).f1 (freqword s.opa).f0)).start
      (clampEvents (freqword s.opa).clamped)
      [liveWrite c s.params.regaddr.aFreq2 (freqword s.opa).f2, liveWrite c s.params.regaddr.aFreq1 (freqword s.opa).f1,
        liveWrite c s.params.regaddr.aFreq0 (freqword s.opa).f0]) := rfl

/-- Settles O56: the first, the second or the third write times out, or none does. -/
theorem setFreqWritesHighMidLow : Obligations.SetFreqWritesHighMidLow := by
  intro c s hinit k res evs h2 h1 h0 s1 s2
  have hevs : clampEvents k.clamped = evs := clampEvents_freqword s.opa
  have htimeout : addEvent .transportTimeout evs = evs ++ [.transportTimeout] := hevs ▸ addEvent_timeout_clampEvents _
  have hrun := exec_of_plan_onBus (plan_setFreq c s) hinit
  rw [hevs] at hrun
  refine ⟨fun hhigh => ?_, fun hhigh hmid => ?_, fun hhigh hmid hlow => ?_, fun hhigh hmid hlow => ?_⟩
  · rw [hrun, State.runTxns_liveWrite_of_timeout _ _ _ _ hhigh, htimeout]
    rfl
  · rw [hrun, State.runTxns_liveWrite_of_ready _ _ _ _ hhigh, State.runTxns_liveWrite_of_timeout _ _ _ _ hmid, htimeout]
    rfl
  · rw [hrun, State.runTxns_liveWrite_of_ready _ _ _ _ hhigh, State.runTxns_liveWrite_of_ready _ _ _ _ hmid,
      State.runTxns_liveWrite_of_timeout _ _ _ _ hlow, htimeout]
    rfl
  · rw [hrun, State.runTxns_liveWrite_of_ready _ _ _ _ hhigh, State.runTxns_liveWrite_of_ready _ _ _ _ hmid,
      State.runTxns_liveWrite_of_ready _ _ _ _ hlow]
    rfl

end Sys2Proof.Machine
end

section
/-! The link-parameter codec (43_link.md R180 to R195): a loop of exact divisions stops where `firstFrom` first finds the test in
whole numbers, and the quotient it leaves rounds to the mantissa, which needs no saturation inside the clamp range. -/

namespace Sys2Proof.Machine

/-! ### The search and the loops of divisions (R180) -/

theorem firstFrom_le_of_holds {p : Nat → Bool} {fuel e k : Nat} (hk : e ≤ k) (h : p k = true) : firstFrom p fuel e ≤ k := by
  by_contra hlt
  rw [firstFrom_least p fuel e k hk (not_le.mp hlt)] at h
  cases h

/-- A search that p ends by its cap finds p. -/
theorem firstFrom_holds_of_cap {p : Nat → Bool} {fuel : Nat} (h : p fuel = true) : p (firstFrom p fuel 0) = true := by
  rcases (firstFrom_le p fuel 0).lt_or_eq with hlt | heq
  · exact firstFrom_holds p fuel 0 hlt
  · rwa [heq, Nat.zero_add]

/-- p does not hold before a value the search finds. -/
theorem not_holds_of_firstFrom_eq_succ {p : Nat → Bool} {fuel e : Nat} (h : firstFrom p fuel 0 = e + 1) : p e = false :=
  firstFrom_least p fuel 0 e (Nat.zero_le e) (by omega)

/-- The halving loop from v stops at the first e with v / 2^e at most its threshold. -/
theorem halvingLoop_eq {p : Nat → Bool} {t v : ℚ} (hp : ∀ e, p e = true ↔ v / 2 ^ e ≤ t) (fuel e : Nat) :
    halvingLoop t fuel (v / 2 ^ e) e = (firstFrom p fuel e, v / 2 ^ firstFrom p fuel e) := by
  induction fuel generalizing e with
  | zero => rfl
  | succ fuel ih =>
    unfold halvingLoop firstFrom
    by_cases h : p e = true
    · rw [if_neg (not_lt.mpr ((hp e).mp h)), if_pos h]
    · rw [if_pos (not_le.mp (mt (hp e).mpr h)), if_neg h, div_div, ← pow_succ, ih]

/-- A bandwidth pass from v stops at the first a with v / d^a at most its threshold; its index counts down. -/
theorem bwPass_eq {p : Nat → Bool} {t d v : ℚ} (hp : ∀ a, p a = true ↔ v / d ^ a ≤ t) (i fuel a : Nat) :
    bwPass t d fuel (v / d ^ a) (i - a) = (i - firstFrom p fuel a, v / d ^ firstFrom p fuel a) := by
  induction fuel generalizing a with
  | zero => rfl
  | succ fuel ih =>
    unfold bwPass firstFrom
    by_cases h : p a = true
    · rw [if_neg (not_lt.mpr ((hp a).mp h)), if_pos h]
    · rw [if_pos (not_le.mp (mt (hp a).mpr h)), if_neg h, div_div, ← pow_succ, Nat.sub_sub, ih]

/-! ### The mantissa (R180) -/

theorem mantissa_eq_sat (num den : Int) : (mantissa num den : Int) = sat 0 255 (rhu num den) :=
  Int.toNat_of_nonneg (sat_mem (by decide)).1

/-- A quotient from -1/2 to below 255 + 1/2 rounds to a byte. -/
theorem mantissa_eq_rhu {num den : Int} (hden : 0 < den) (hlo : -den ≤ 2 * num) (hhi : 2 * num < 511 * den) :
    (mantissa num den : Int) = rhu num den := by
  have hnonneg : 0 ≤ rhu num den := Int.ediv_nonneg (by omega) (by omega)
  have hlt : rhu num den < 256 := Int.ediv_lt_of_lt_mul (by omega) (by omega)
  rw [mantissa_eq_sat, sat_of_mem hnonneg (by omega)]

/-- The mantissa of the loop's quotient c / 2^e, over the common denominator d·2^e. -/
theorem roundHalfUp_halved {d : Int} (hd : 0 < d) (k l c : Int) (e : Nat) :
    roundHalfUp (k * ((c : ℚ) / 2 ^ e - l) / d) = rhu (k * (c - l * 2 ^ e)) (d * 2 ^ e) := by
  have hd' : (d : ℚ) ≠ 0 := by exact_mod_cast hd.ne'
  rw [← roundHalfUp_div_eq_rhu (mul_pos hd (by positivity))]
  congr 1
  push_cast
  field_simp

theorem clampq_snd_eq_true_iff {q lo hi : Nat} : (clampq q lo hi).2 = true ↔ q < lo ∨ hi < q := by simp [clampq]

/-! ### Data rate (R182, R195) -/

/-- R182's test of the loop, in whole numbers. -/
theorem drate_test_iff (c e : Nat) :
    decide (256 * c ≤ 511 * Config.drL * 2 ^ e) = true ↔ (c : ℚ) / 2 ^ e ≤ 511 / 256 * Config.drL := by
  rw [decide_eq_true_iff, div_le_iff₀ (by positivity), ← Nat.cast_le (α := ℚ)]
  push_cast
  constructor <;> intro h <;> linarith

theorem drateByLoop_eq (c : Nat) : drateByLoop c = (drateExp c, (drateMant c (drateExp c) : Int)) := by
  have hloop : halvingLoop (511 / 256 * Config.drL) 15 (c / 2 ^ 0) 0 = (drateExp c, (c : ℚ) / 2 ^ drateExp c) :=
    halvingLoop_eq (drate_test_iff c) 15 0
  rw [pow_zero, div_one] at hloop
  have hround := roundHalfUp_halved (by decide : (0 : Int) < Config.drL) 256 Config.drL c (drateExp c)
  rw [drateMant, mantissa_eq_sat, ← hround, drateByLoop, hloop]
  simp only [Int.cast_ofNat, Int.cast_natCast]

theorem drateExp_le (c : Nat) : drateExp c ≤ 15 := firstFrom_le _ 15 0

/-- DR_U is above the threshold of the last halving, but by less than half a mantissa count. -/
theorem drateExp_upper {c : Nat} (h : c ≤ Config.drU) : 512 * c < 1023 * Config.drL * 2 ^ drateExp c := by
  rcases (drateExp_le c).lt_or_eq with hlt | heq
  · have hle := of_decide_eq_true (firstFrom_holds _ 15 0 hlt)
    change 256 * c ≤ 511 * Config.drL * 2 ^ drateExp c at hle
    have hpos : 0 < 2 ^ drateExp c := Nat.two_pow_pos _
    simp only [Config.drL] at *
    omega
  · rw [heq]
    simp only [Config.drL, Config.drU] at *
    omega

/-- Before the last halving c was above the threshold. -/
theorem drateExp_lower {c : Nat} (h : Config.drL ≤ c) : 511 * Config.drL * 2 ^ drateExp c ≤ 512 * c := by
  cases he : drateExp c with
  | zero => omega
  | succ e =>
    have hgt : ¬ 256 * c ≤ 511 * Config.drL * 2 ^ e := of_decide_eq_false (not_holds_of_firstFrom_eq_succ he)
    calc 511 * Config.drL * 2 ^ (e + 1)
      _ = 2 * (511 * Config.drL * 2 ^ e) := by ring
      _ ≤ 512 * c := by omega

theorem drateMant_eq_rhu {c : Nat} (hlo : Config.drL ≤ c) (hhi : c ≤ Config.drU) :
    (drateMant c (drateExp c) : Int) =
      rhu (256 * ((c : Int) - Config.drL * 2 ^ drateExp c)) (Config.drL * 2 ^ drateExp c) := by
  have hupper : 512 * (c : Int) < 1023 * Config.drL * 2 ^ drateExp c := by exact_mod_cast drateExp_upper hhi
  have hlower : 511 * Config.drL * 2 ^ drateExp c ≤ 512 * (c : Int) := by exact_mod_cast drateExp_lower hlo
  exact mantissa_eq_rhu (by positivity) (by linarith) (by linarith)

/-- Settles O50: the loop is the search, and between its tests the mantissa needs no saturation. -/
theorem drateIsTheHalvingLoop : Obligations.DrateIsTheHalvingLoop :=
  ⟨fun c hlo hhi => ⟨drateByLoop_eq c, drateExp_le c, drateMant_eq_rhu hlo hhi⟩,
    fun _ => ⟨(drateByLoop_eq _).symm, clampq_snd_eq_true_iff⟩⟩

theorem drate_of_mem {c : Nat} (hlo : Config.drL ≤ c) (hhi : c ≤ Config.drU) :
    drate c = ⟨drateExp c, drateMant c (drateExp c), false⟩ := by
  rw [drate, clampq_of_mem hlo hhi]

/-- Settles O51: the mantissa is an unsaturated rounding, so it is within a half of its quotient (whatever E is). -/
theorem drateDecodesWithinHalfACount : Obligations.DrateDecodesWithinHalfACount := by
  intro c hlo hhi _
  simp only [drate_of_mem hlo hhi]
  obtain ⟨hle, hlt⟩ := rhu_spec (num := 256 * ((c : Int) - Config.drL * 2 ^ drateExp c))
    (den := Config.drL * 2 ^ drateExp c) (by positivity)
  rw [← drateMant_eq_rhu hlo hhi] at hle hlt
  have hle' : (Config.drL * 2 ^ drateExp c * (2 * drateMant c (drateExp c) - 1) : ℚ) ≤
      2 * (256 * (c - Config.drL * 2 ^ drateExp c)) := by exact_mod_cast hle
  have hlt' : (2 * (256 * (c - Config.drL * 2 ^ drateExp c)) : ℚ) <
      Config.drL * 2 ^ drateExp c * (2 * drateMant c (drateExp c) + 1) := by exact_mod_cast hlt
  rw [drValue, abs_le]
  generalize (Config.drL * 2 ^ drateExp c : ℚ) = den at *
  constructor
  · linarith
  · linarith

/-! ### Deviation (R185) -/

theorem devReaches_iff (d k : Nat) : devReaches d k = true ↔ (d : ℚ) ≤ devValue k := by
  rw [devReaches, decide_eq_true_iff, devValue, le_div_iff₀ (by norm_num), mul_comm (d : ℚ)]
  exact_mod_cast Iff.rfl

/-- The last step's value is DV_U. -/
theorem devReaches_last {d : Nat} (h : d ≤ Config.dvU) : devReaches d 63 = true := by
  simp only [devReaches, decide_eq_true_iff]
  omega

theorem devByte_toNat : ∀ k ≤ 63, (devByte k).toNat = 16 * (k / 8) + k % 8 := by decide

/-- Settles O52: the search's test is that of the exact values, and the last step ends it. -/
theorem devIsTheFirstStepReached : Obligations.DevIsTheFirstStepReached := by
  refine ⟨fun d _ hd => ?_, fun _ => ⟨rfl, clampq_snd_eq_true_iff⟩⟩
  have hle : devIndex d ≤ 63 := firstFrom_le_of_holds (Nat.zero_le 63) (devReaches_last hd)
  have hreached : devReaches d (devIndex d) = true := firstFrom_holds _ 64 0 (Nat.lt_succ_of_le hle)
  refine ⟨hle, (devReaches_iff d _).mp hreached, fun k hk => ?_, devByte_toNat _ hle⟩
  have hnot : devReaches d k = false := firstFrom_least _ 64 0 k (Nat.zero_le k) hk
  exact not_le.mp fun h => Bool.false_ne_true (hnot.symm.trans ((devReaches_iff d k).mpr h))

/-! ### Receive bandwidth (R188) -/

/-- The test of pass 1, in whole numbers. -/
theorem bw_halving_test_iff (f a : Nat) : decide (f ≤ Config.bwT1 * 2 ^ a) = true ↔ (f : ℚ) / 2 ^ a ≤ Config.bwT1 := by
  rw [decide_eq_true_iff, div_le_iff₀ (by positivity)]
  exact_mod_cast Iff.rfl

/-- The test of pass 2, in whole numbers. -/
theorem bw_scaling_test_iff (f a b : Nat) :
    decide (f * 4 ^ b ≤ Config.bwT2 * 2 ^ a * 5 ^ b) = true ↔ (f : ℚ) / 2 ^ a / (5 / 4) ^ b ≤ Config.bwT2 := by
  have hquot : (f : ℚ) / 2 ^ a / (5 / 4) ^ b = (f * 4 ^ b : Nat) / (2 ^ a * 5 ^ b : Nat) := by
    push_cast
    rw [div_pow]
    field_simp
  rw [decide_eq_true_iff, hquot, div_le_iff₀ (by positivity), mul_assoc]
  exact_mod_cast Iff.rfl

theorem bwByPasses_eq (f : Nat) : bwByPasses f = (3 - bwHalvings f, 3 - bwScalings f (bwHalvings f)) := by
  have hfirst := bwPass_eq (bw_halving_test_iff f) 3 3 0
  have hsecond := bwPass_eq (bw_scaling_test_iff f (bwHalvings f)) 3 3 0
  rw [pow_zero, div_one, Nat.sub_zero] at hfirst hsecond
  rw [bwByPasses, hfirst]
  exact congrArg (Prod.mk _ ·.1) hsecond

theorem bwNibble_toNat : ∀ s1 ≤ 3, ∀ s2 ≤ 3, (bwNibble s1 s2).toNat = 64 * s1 + 16 * s2 := by decide

/-- Settles O53: each pass is a search, and its index is what is left of 3. -/
theorem bwIsTheTwoPasses : Obligations.BwIsTheTwoPasses := by
  intro f
  rw [bwByPasses_eq]
  exact ⟨Nat.sub_le .., Nat.sub_le .., bwNibble_toNat _ (Nat.sub_le ..) _ (Nat.sub_le ..)⟩

/-! ### Channel spacing (R191) -/

/-- R191's test of the loop, in whole numbers. -/
theorem chsp_test_iff (q e : Nat) : decide (q ≤ Config.csT * 2 ^ e) = true ↔ (q : ℚ) / 2 ^ e ≤ Config.csT := by
  rw [decide_eq_true_iff, div_le_iff₀ (by positivity)]
  exact_mod_cast Iff.rfl

theorem chspByLoop_eq (q : Nat) : chspByLoop q = (chspExp q, (chspMant q (chspExp q) : Int)) := by
  have hloop : halvingLoop Config.csT 3 (q / 2 ^ 0) 0 = (chspExp q, (q : ℚ) / 2 ^ chspExp q) :=
    halvingLoop_eq (chsp_test_iff q) 3 0
  rw [pow_zero, div_one] at hloop
  have hround := roundHalfUp_halved (by decide : (0 : Int) < Config.csT - Config.csL) 255 Config.csL q (chspExp q)
  rw [chspMant, mantissa_eq_sat, ← hround, chspByLoop, hloop]
  simp only [Int.cast_sub, Int.cast_ofNat, Int.cast_natCast]

theorem chspExp_le (q : Nat) : chspExp q ≤ 3 := firstFrom_le _ 3 0

/-- CS_U is below the threshold of the last halving. -/
theorem chspExp_upper {q : Nat} (h : q ≤ Config.csU) : q ≤ Config.csT * 2 ^ chspExp q := by
  have hcap : decide (q ≤ Config.csT * 2 ^ 3) = true := decide_eq_true (h.trans (by decide))
  exact of_decide_eq_true (firstFrom_holds_of_cap (p := fun e => q ≤ Config.csT * 2 ^ e) hcap)

/-- Before the last halving q was above the threshold, and CS_T/2 is below CS_L by less than half a mantissa count. -/
theorem chspExp_lower {q : Nat} (h : Config.csL ≤ q) :
    511 * Config.csL * 2 ^ chspExp q ≤ 510 * q + Config.csT * 2 ^ chspExp q := by
  cases he : chspExp q with
  | zero =>
    simp only [Config.csL, Config.csT] at *
    omega
  | succ e =>
    have hgt : ¬ q ≤ Config.csT * 2 ^ e := of_decide_eq_false (not_holds_of_firstFrom_eq_succ he)
    rw [pow_succ]
    simp only [Config.csL, Config.csT] at *
    omega

theorem chspMant_eq_rhu {q : Nat} (hlo : Config.csL ≤ q) (hhi : q ≤ Config.csU) : (chspMant q (chspExp q) : Int) =
    rhu (255 * ((q : Int) - Config.csL * 2 ^ chspExp q)) (((Config.csT : Int) - Config.csL) * 2 ^ chspExp q) := by
  have hupper : (q : Int) ≤ Config.csT * 2 ^ chspExp q := by exact_mod_cast chspExp_upper hhi
  have hlower : 511 * Config.csL * 2 ^ chspExp q ≤ 510 * (q : Int) + Config.csT * 2 ^ chspExp q := by
    exact_mod_cast chspExp_lower hlo
  have hden : 0 < ((Config.csT : Int) - Config.csL) * 2 ^ chspExp q := mul_pos (by decide) (by positivity)
  exact mantissa_eq_rhu hden (by linarith) (by linarith)

/-- Settles O54: the loop is the search, and between its tests the mantissa needs no saturation. -/
theorem chspIsTheHalvingLoop : Obligations.ChspIsTheHalvingLoop :=
  ⟨fun q hlo hhi => ⟨chspByLoop_eq q, chspExp_le q, chspMant_eq_rhu hlo hhi⟩,
    fun _ => ⟨(chspByLoop_eq _).symm, clampq_snd_eq_true_iff⟩⟩

end Sys2Proof.Machine
end

section
/-! The link-parameter commands on the bus (43_link.md R184, R187, R190, R193): RES is written first; a live read is merged and
written back, and a whole register is written without a read. -/

namespace Sys2Proof.Machine

/-! ### A live read that is merged, and its write (R136) -/

section
variable {c : Chip} {a : Addr} {s : State} (keep new : Byte) (res : Word) (ts : List Txn) (held : Byte) (evs : List Event)

theorem State.runTxns_liveRead_of_ready (h : s.pollReady c (hdrRead a) [] 1 = true) :
    (s.setRes res).runTxns (liveRead c a (.merge keep new) :: ts) held evs =
      ((s.afterXfer ⟨c, hdrRead a, [], [s.answerByte c (hdrRead a)], .ok⟩).setRes res).runTxns ts
        ((s.answerByte c (hdrRead a) &&& keep) ||| new) evs :=
  State.runTxns_of_ready (t := liveRead c a (.merge keep new)) (s := s.setRes res) ts evs h

theorem State.runTxns_liveRead_of_timeout (h : s.pollReady c (hdrRead a) [] 1 = false) :
    (s.setRes res).runTxns (liveRead c a (.merge keep new) :: ts) held evs =
      (s.afterXfer ⟨c, hdrRead a, [], [], .timeout⟩).completed res (addEvent .transportTimeout evs) :=
  State.runTxns_of_timeout (t := liveRead c a (.merge keep new)) (s := s.setRes res) ts evs h

/-- The held byte is written like a given one. -/
theorem State.runTxns_liveWriteHeld (c : Chip) (a : Addr) (s : State) :
    s.runTxns (liveWriteHeld c a :: ts) held evs = s.runTxns (liveWrite c a held :: ts) held evs := rfl

end

/-! ### Whole-register write and bandwidth nibble (R187, R190) -/

theorem plan_setDev (c : Chip) (s : State) : plan (.setDev c) s =
    s.onBus ((s.setRes (resByte (dev s.opa).1)).start (clampEvents (dev s.opa).2)
      [liveWrite c s.params.regaddr.aDeviatn (dev s.opa).1]) := rfl

/-- Settles O58: the two outcomes of the one write. -/
theorem setDevWritesTheWholeRegister : Obligations.SetDevWritesTheWholeRegister := by
  intro c s hinit b evs h
  have hevs : clampEvents (dev s.opa).2 = evs := clampEvents_clampq s.opa Config.dvL Config.dvU
  have htimeout : addEvent .transportTimeout evs = evs ++ [.transportTimeout] := hevs ▸ addEvent_timeout_clampEvents _
  have hrun := exec_of_plan_onBus (plan_setDev c s) hinit
  rw [hevs] at hrun
  refine ⟨fun hwrite => ?_, fun hwrite => ?_⟩
  · rw [hrun, State.runTxns_liveWrite_of_timeout _ _ _ _ hwrite, htimeout]
    rfl
  · rw [hrun, State.runTxns_liveWrite_of_ready _ _ _ _ hwrite]
    rfl

theorem plan_setBw (c : Chip) (s : State) : plan (.setBw c) s = s.onBus ((s.setRes (resByte (bw s.opa))).start []
    [liveRead c s.params.regaddr.aMdmcfg4 (.merge 0x0F#8 (bw s.opa)), liveWriteHeld c s.params.regaddr.aMdmcfg4]) := rfl

/-- Settles O59: the read times out, or the write does, or neither. -/
theorem setBwMergesTheNibble : Obligations.SetBwMergesTheNibble := by
  intro c s hinit res hr h4 b new s1
  have hrun := exec_of_plan_onBus (plan_setBw c s) hinit
  refine ⟨fun hread => ?_, fun hread hwrite => ?_, fun hread hwrite => ?_⟩
  · rw [hrun, State.runTxns_liveRead_of_timeout _ _ _ _ _ _ hread]
    rfl
  · rw [hrun, State.runTxns_liveRead_of_ready _ _ _ _ _ _ hread, State.runTxns_liveWriteHeld,
      State.runTxns_liveWrite_of_timeout _ _ _ _ hwrite]
    rfl
  · rw [hrun, State.runTxns_liveRead_of_ready _ _ _ _ _ _ hread, State.runTxns_liveWriteHeld,
      State.runTxns_liveWrite_of_ready _ _ _ _ hwrite]
    rfl

/-! ### Exponent and mantissa (R184, R193) -/

/-- The exponent is merged into the register at a, then the mantissa is written to the one at a': the read, the first or the
second write times out, or none does. -/
theorem exec_of_plan_mergeThenWrite {i : Instr} {s : State} {c : Chip} {a a' : Addr} {keep low m : Byte} {v res : Word}
    {clamped : Bool} {evs : List Event}
    (hp : plan i s = s.onBus ((s.setRes v).start (clampEvents clamped)
      [liveRead c a (.merge keep low), liveWriteHeld c a, liveWrite c a' m]))
    (hinit : s.status.init = true) (hv : v = res) (hevs : clampEvents clamped = evs) :
    let b := s.answerByte c (hdrRead a)
    let new := (b &&& keep) ||| low
    let s1 := s.afterXfer ⟨c, hdrRead a, [], [b], .ok⟩
    let s2 := s1.afterXfer ⟨c, hdrWrite a, [new], [], .ok⟩
    (s.pollReady c (hdrRead a) [] 1 = false → exec i s =
      .next ((s.afterXfer ⟨c, hdrRead a, [], [], .timeout⟩).completed res (evs ++ [.transportTimeout]))) ∧
    (s.pollReady c (hdrRead a) [] 1 = true → s1.pollReady c (hdrWrite a) [new] 0 = false → exec i s =
      .next ((s1.afterXfer ⟨c, hdrWrite a, [], [], .timeout⟩).completed res (evs ++ [.transportTimeout]))) ∧
    (s.pollReady c (hdrRead a) [] 1 = true → s1.pollReady c (hdrWrite a) [new] 0 = true →
      s2.pollReady c (hdrWrite a') [m] 0 = false → exec i s =
        .next ((s2.afterXfer ⟨c, hdrWrite a', [], [], .timeout⟩).completed res (evs ++ [.transportTimeout]))) ∧
    (s.pollReady c (hdrRead a) [] 1 = true → s1.pollReady c (hdrWrite a) [new] 0 = true →
      s2.pollReady c (hdrWrite a') [m] 0 = true → exec i s =
        .next ((s2.afterXfer ⟨c, hdrWrite a', [m], [], .ok⟩).completed res evs)) := by
  subst hv hevs
  intro b new s1 s2
  have hrun := exec_of_plan_onBus hp hinit
  refine ⟨fun hread => ?_, fun hread hmerge => ?_, fun hread hmerge hmant => ?_, fun hread hmerge hmant => ?_⟩
  · rw [hrun, State.runTxns_liveRead_of_timeout _ _ _ _ _ _ hread, addEvent_timeout_clampEvents]
  · rw [hrun, State.runTxns_liveRead_of_ready _ _ _ _ _ _ hread, State.runTxns_liveWriteHeld,
      State.runTxns_liveWrite_of_timeout _ _ _ _ hmerge, addEvent_timeout_clampEvents]
  · rw [hrun, State.runTxns_liveRead_of_ready _ _ _ _ _ _ hread, State.runTxns_liveWriteHeld,
      State.runTxns_liveWrite_of_ready _ _ _ _ hmerge, State.runTxns_liveWrite_of_timeout _ _ _ _ hmant,
      addEvent_timeout_clampEvents]
  · rw [hrun, State.runTxns_liveRead_of_ready _ _ _ _ _ _ hread, State.runTxns_liveWriteHeld,
      State.runTxns_liveWrite_of_ready _ _ _ _ hmerge, State.runTxns_liveWrite_of_ready _ _ _ _ hmant, State.runTxns_nil,
      State.setRes_complete]

theorem plan_setDrate (c : Chip) (s : State) : plan (.setDrate c) s =
    s.onBus ((s.setRes (resExpMant (drate s.opa).e (drate s.opa).m)).start (clampEvents (drate s.opa).clamped)
      [liveRead c s.params.regaddr.aMdmcfg4 (.merge 0xF0 (BitVec.ofNat 8 (drate s.opa).e)),
        liveWriteHeld c s.params.regaddr.aMdmcfg4,
        liveWrite c s.params.regaddr.aMdmcfg3 (BitVec.ofNat 8 (drate s.opa).m)]) := rfl

/-- Settles O57: E into MDMCFG4, M to MDMCFG3. -/
theorem setDrateMergesTheExponent : Obligations.SetDrateMergesTheExponent := fun c s hinit =>
  exec_of_plan_mergeThenWrite (plan_setDrate c s) hinit (resExpMant_eq (mantissa_le _ _))
    (clampEvents_clampq s.opa Config.drL Config.drU)

theorem plan_setChsp (c : Chip) (s : State) : plan (.setChsp c) s =
    s.onBus ((s.setRes (resExpMant (chsp s.opa).e (chsp s.opa).m)).start (clampEvents (chsp s.opa).clamped)
      [liveRead c s.params.regaddr.aMdmcfg1 (.merge 0xF0 (BitVec.ofNat 8 (chsp s.opa).e)),
        liveWriteHeld c s.params.regaddr.aMdmcfg1,
        liveWrite c s.params.regaddr.aMdmcfg0 (BitVec.ofNat 8 (chsp s.opa).m)]) := rfl

/-- Settles O60: E into MDMCFG1, M to MDMCFG0. -/
theorem setChspMergesTheExponent : Obligations.SetChspMergesTheExponent := fun c s hinit =>
  exec_of_plan_mergeThenWrite (plan_setChsp c s) hinit (resExpMant_eq (mantissa_le _ _))
    (clampEvents_clampq s.opa Config.csL Config.csU)

end Sys2Proof.Machine
end

section
/-! The engine's phases (60_exceptions.md R223, R227, R228; log entry 3): no phase changes what running the engine to the end
gives (`runEngine_phase`), eight phases end a command (`iterate_phase_eight_idle`), and only a completing phase reports. -/

namespace Sys2Proof.Machine

/-! ### The completion step (R227, R228) -/

/-- Settles O24: the sticky bits by membership, CAUSE by its priority (`causeOf_eq`). -/
theorem completionStepReports : Obligations.CompletionStepReports := by
  intro s evs
  simp only [State.complete, Status.complete, causeOf_eq, List.contains_eq_mem]

theorem Status.complete_illegalCommand (st : Status) : st.complete [.illegalCommand] =
    { st with illegal := true, cause := 3, done := true, busy := false } := by
  simp [Status.complete]

/-! ### Running the engine, by ENG -/

section
variable {s : State}

theorem runEngine_of_idle (he : s.eng = .idle) : s.runEngine = .next s := by
  simp only [State.runEngine, he]

theorem runEngine_of_decode_error {e : DecodeError} (he : s.eng = .accepted) (hd : decode s.cmd = .error e) :
    s.runEngine = .next (s.complete [.illegalCommand]) := by
  simp only [State.runEngine, he, hd, State.illegal, State.finish_raise]

theorem runEngine_of_decode_ok {i : Instr} (he : s.eng = .accepted) (hd : decode s.cmd = .ok i) :
    s.runEngine = .next (plan i s).finish := by
  simp only [State.runEngine, he, hd, exec_eq_plan]

theorem finish_of_running {f : Flight} (he : s.eng = .running f) : s.finish = s.runTxns f.todo f.held f.events := by
  simp only [State.finish, he]

theorem runEngine_of_running {f : Flight} (he : s.eng = .running f) :
    s.runEngine = .next (s.runTxns f.todo f.held f.events) := by
  simp only [State.runEngine, he, finish_of_running he]

end

/-- Settles O7: the engine's own step, and the completion with IllegalCommand alone. -/
theorem illegalWordOnlyReports : Obligations.IllegalWordOnlyReports := by
  intro s e hin he hd
  have hstep : step s = s.runEngine := by simp only [step, hin]
  rw [hstep, runEngine_of_decode_error he hd, State.complete, Status.complete_illegalCommand]

/-! ### One phase is part of the run (R228) -/

section
variable {s : State} {t : Txn} {f : Flight} (ts : List Txn)

theorem transferPhase_of_ready (h : s.pollReady t.chip t.hdr (t.send.resolve f.held) t.nin = true) :
    s.transferPhase t ts f =
      (t.after.apply (s.received t.chip t.hdr (t.send.resolve f.held) t.nin) (s.afterXfer ⟨t.chip, t.hdr,
        t.send.resolve f.held, s.received t.chip t.hdr (t.send.resolve f.held) t.nin, .ok⟩)).setEng
        (.running ⟨ts, t.after.hold (s.received t.chip t.hdr (t.send.resolve f.held) t.nin) f.held, f.events⟩) := by
  simp only [State.transferPhase, State.transfer_of_ready h]

theorem transferPhase_of_timeout (h : s.pollReady t.chip t.hdr (t.send.resolve f.held) t.nin = false) :
    s.transferPhase t ts f = (t.onTimeout (s.afterXfer ⟨t.chip, t.hdr, [], [], .timeout⟩)).setEng
      (.running ⟨[], f.held, addEvent .transportTimeout f.events⟩) := by
  simp only [State.transferPhase, State.transfer_of_timeout h]

end

/-- A transaction selects its own chip, whichever was selected before it. -/
theorem runTxns_cons_select (c : Chip) (t : Txn) (ts : List Txn) (held : Byte) (evs : List Event) (s : State) :
    (s.select c).runTxns (t :: ts) held evs = s.runTxns (t :: ts) held evs := rfl

theorem runEngine_complete (evs : List Event) (s : State) : (s.complete evs).runEngine = .next (s.complete evs) :=
  runEngine_of_idle rfl

theorem runEngine_begin {s : State} (he : s.eng = .accepted) : s.begin.runEngine = s.runEngine := by
  rcases begin_cases s with ⟨e, hd, hb⟩ | ⟨i, hd, ⟨evs, t, ts, hrun, hb, -⟩ | ⟨evs, hrun, hb⟩⟩ <;> rw [hb]
  · rw [runEngine_of_decode_error he hd, runEngine_complete]
  · rw [runEngine_of_decode_ok he hd, runEngine_of_running hrun, finish_of_running hrun]
  · rw [runEngine_of_decode_ok he hd, finish_of_running hrun, State.runTxns_nil, runEngine_complete]

/-- The transaction's phase does the first turn of `runTxns`. -/
theorem runEngine_transferPhase (t : Txn) (ts : List Txn) (f : Flight) (s : State) :
    (s.transferPhase t ts f).runEngine = .next (s.runTxns (t :: ts) f.held f.events) := by
  cases h : s.pollReady t.chip t.hdr (t.send.resolve f.held) t.nin with
  | false =>
    rw [transferPhase_of_timeout ts h, runEngine_of_running rfl, State.runTxns_setEng, State.runTxns_of_timeout ts _ h,
      State.runTxns_nil]
  | true =>
    rw [transferPhase_of_ready ts h, runEngine_of_running rfl, State.runTxns_setEng, State.runTxns_of_ready ts _ h]

/-- Running the engine to the end gives the same before and after a phase. -/
theorem runEngine_phase (s : State) : s.phase.runEngine = s.runEngine := by
  rcases phase_cases s with ⟨-, hp⟩ | ⟨he, hp⟩ | ⟨f, hf, ht, hp⟩ | ⟨f, t, ts, hf, ht, -, hp⟩ | ⟨f, t, ts, _, hf, ht, -, hp⟩ <;>
    rw [hp]
  · exact runEngine_begin he
  · rw [runEngine_of_running hf, ht, State.runTxns_nil, runEngine_complete]
  · rw [runEngine_of_running (s := s.select t.chip) hf, runEngine_of_running hf, ht, runTxns_cons_select]
  · rw [runEngine_of_running hf, ht, runEngine_transferPhase]

theorem runEngine_iterate_phase (n : Nat) (s : State) : (State.phase^[n] s).runEngine = s.runEngine := by
  induction n generalizing s with
  | zero => rfl
  | succ n ih => rw [Function.iterate_succ_apply, ih, runEngine_phase]

/-! ### Eight phases end a command (70_reset_and_hazards.md R259) -/

theorem phase_of_idle {s : State} (he : s.eng = .idle) : s.phase = s := by
  simp only [State.phase, he]

theorem phase_of_todo_nil {s : State} {f : Flight} (hf : s.eng = .running f) (ht : f.todo = []) :
    s.phase = s.complete f.events := by
  simp only [State.phase, hf, ht]

theorem iterate_phase_of_idle {s : State} (he : s.eng = .idle) (n : Nat) : State.phase^[n] s = s :=
  Function.iterate_fixed (phase_of_idle he) n

/-- Two phases do one transaction: the first selects the chip. -/
theorem phase_phase_of_todo {s : State} {f : Flight} {t : Txn} {ts : List Txn} (hf : s.eng = .running f)
    (ht : f.todo = t :: ts) (hsel : s.sel = none) : s.phase.phase = s.transferPhase t ts f := by
  have hselect : s.phase = s.select t.chip := by simp only [State.phase, hf, ht, hsel]
  have htransfer : (s.select t.chip).phase = (s.select t.chip).transferPhase t ts f := by
    simp only [State.phase, State.select_eng, State.select_sel, hf, ht]
  rw [hselect, htransfer]
  rfl

/-- After a transaction's phase the chip is deselected, and no more transactions are left than followed it. -/
theorem transferPhase_running (t : Txn) (ts : List Txn) (f : Flight) (s : State) : ∃ g : Flight,
    (s.transferPhase t ts f).eng = .running g ∧ (s.transferPhase t ts f).sel = none ∧ g.todo.length ≤ ts.length := by
  cases h : s.pollReady t.chip t.hdr (t.send.resolve f.held) t.nin with
  | false => rw [transferPhase_of_timeout ts h]; exact ⟨_, rfl, by simp, Nat.zero_le _⟩
  | true => rw [transferPhase_of_ready ts h]; exact ⟨_, rfl, by simp, le_rfl⟩

/-- Two phases for each transaction left, and one to complete. -/
theorem iterate_phase_idle_of_running {n : Nat} {s : State} {f : Flight} (hf : s.eng = .running f) (hsel : s.sel = none)
    (hn : f.todo.length ≤ n) : (State.phase^[2 * n + 1] s).eng = .idle := by
  induction n generalizing s f with
  | zero =>
    have ht : f.todo = [] := List.length_eq_zero_iff.1 (Nat.le_zero.1 hn)
    exact congrArg State.eng (phase_of_todo_nil hf ht)
  | succ n ih =>
    rw [show 2 * (n + 1) + 1 = 2 * n + 1 + 1 + 1 from rfl, Function.iterate_succ_apply, Function.iterate_succ_apply]
    cases ht : f.todo with
    | nil =>
      rw [phase_of_todo_nil hf ht, phase_of_idle rfl, iterate_phase_of_idle rfl]
      rfl
    | cons t ts =>
      rw [phase_phase_of_todo hf ht hsel]
      obtain ⟨g, hg, hgsel, hlen⟩ := transferPhase_running t ts f s
      rw [ht, List.length_cons] at hn
      exact ih hg hgsel (hlen.trans (Nat.le_of_succ_le_succ hn))

/-- One phase decodes, and at most three transactions are left after it. -/
theorem iterate_phase_eight_idle {s : State} (he : s.eng = .accepted) (hsel : s.sel = none) :
    (State.phase^[8] s).eng = .idle := by
  have hp : s.phase = s.begin := by simp only [State.phase, he]
  rw [Function.iterate_succ_apply, hp]
  rcases begin_cases s with ⟨e, -, hb⟩ | ⟨i, -, ⟨evs, t, ts, hrun, hb, -⟩ | ⟨evs, -, hb⟩⟩ <;> rw [hb]
  · rw [iterate_phase_of_idle rfl]; rfl
  · exact iterate_phase_idle_of_running hrun (plan_sel i hsel) (plan_todo hrun).1
  · rw [iterate_phase_of_idle rfl]; rfl

/-- Settles O9: each phase keeps what the run ends in, and after eight the engine is idle, so that the run is over. -/
theorem phasesRefineTheCommand : Obligations.PhasesRefineTheCommand := by
  intro s he hsel
  calc s.runEngine = (State.phase^[8] s).runEngine := (runEngine_iterate_phase 8 s).symm
    _ = .next (State.phase^[8] s) := runEngine_of_idle (iterate_phase_eight_idle he hsel)

/-! ### Nothing is reported before the completing phase (R228) -/

/-- A plan with a transaction to issue is not BUS_INIT's, which has none and is the only one to set up the bus. -/
theorem plan_sameOperands_of_todo {i : Instr} {s : State} {t : Txn} {ts : List Txn} {held : Byte} {evs : List Event}
    (hrun : (plan i s).eng = .running ⟨t :: ts, held, evs⟩) : SameOperands s (plan i s) := by
  refine plan_sameOperands s fun hi => ?_
  have hnil : t :: ts = [] := todo_of_not_usesBus (hi ▸ rfl) hrun
  cases hnil

theorem SameOperands.select (c : Chip) (s : State) : SameOperands s (s.select c) :=
  ⟨rfl, rfl, rfl, rfl, rfl, rfl, rfl, rfl, rfl, rfl⟩

/-- A phase that does not end the command reports nothing. -/
theorem phase_quiet_of_not_idle {s : State} (h : s.phase.eng ≠ .idle) :
    s.phase.status = s.status ∧ SameOperands s s.phase := by
  rcases phase_cases s with ⟨he, hp⟩ | ⟨-, hp⟩ | ⟨f, -, -, hp⟩ | ⟨f, t, ts, -, -, -, hp⟩ | ⟨f, t, ts, _, -, -, -, hp⟩ <;>
    rw [hp] at h ⊢
  · exact absurd he h
  · rcases begin_cases s with ⟨_, -, hb⟩ | ⟨i, -, ⟨_, _, _, hrun, hb, hst⟩ | ⟨evs, -, hb⟩⟩ <;> rw [hb] at h ⊢
    · exact absurd rfl h
    · exact ⟨hst, plan_sameOperands_of_todo hrun⟩
    · exact absurd rfl h
  · exact absurd rfl h
  · exact ⟨rfl, .select t.chip s⟩
  · obtain ⟨g, e, hg, -, hst, -, -⟩ := transferPhase_cases t ts f s
    exact ⟨by rw [hg, State.setEng_status, hst], transferPhase_sameOperands t ts f s⟩

/-- Settles O10: a phase after which the command is in progress has decoded it, selected a chip or done a transaction. -/
theorem statusIsUnchangedUntilCompletion : Obligations.StatusIsUnchangedUntilCompletion := by
  intro s h
  obtain ⟨hst, hsame⟩ := phase_quiet_of_not_idle h
  exact ⟨hst, hsame.cmd, hsame.opaLo, hsame.opaHi, hsame.lines, hsame.rdata, hsame.inputs⟩

end Sys2Proof.Machine
end

section
/-! Reset (70_reset_and_hazards.md R250, R251): it takes any state at once to the reset state, which meets the invariant. -/

namespace Sys2Proof.Machine

/-! ### The reset state (R250) -/

/-- With SEL = NONE every CS[c] is deasserted (10_state.md R37, R40). -/
theorem State.csAsserted_of_deselected {s : State} (h : s.sel = none) (c : Chip) : s.csAsserted c = false := by
  simp [State.csAsserted, h]

theorem Status.word_reset : Status.reset.word = 0x00000000 := by decide

/-- Settles O21: STATUS, BUF and the chip selects are computed from the state; the other entries stand in its definition. -/
theorem resetGivesEveryStateItsValue : Obligations.ResetGivesEveryStateItsValue :=
  ⟨rfl, Status.word_reset, rfl, rfl, rfl, Memory.read_nil, rfl, rfl, State.csAsserted_of_deselected rfl, rfl, rfl, rfl, rfl⟩

/-- Resetting the reset state leaves it as it is. -/
theorem State.resetRce_reset : State.reset.resetRce = State.reset := rfl

/-- Settles O28: a reset gives a state that meets the invariant, and it leaves the reset state as it is. -/
theorem resetMeetsTheInvariant : Obligations.ResetMeetsTheInvariant := by
  have h : State.reset.resetRce.Inv := State.Inv.resetRce State.reset
  rwa [State.resetRce_reset] at h

/-! ### Reset as a step (R251) -/

/-- Reset is a step whatever ENG is, and takes only its own place in `inputs`. -/
theorem step_reset {s : State} {rest : List Input} (hin : s.inputs = .reset :: rest) :
    step s = .next (s.next rest).resetRce := by
  simp only [step, hin]

/-- Settles O22: the step is the reset, which keeps only the parameters and what is outside the RCE. -/
theorem resetCutsTheCommandOff : Obligations.ResetCutsTheCommandOff := by
  intro s rest hin
  rw [step_reset hin, State.resetRce_eq]
  rfl

end Sys2Proof.Machine
end
